-- ==== Sys2Proof/Word.lean ====
section
/-! DEFINITION. The widths of the engine's values (spec/00_scope.md R9, R10) and the two index ranges
that its tables are indexed by (spec/20_memory.md R34). Every value is unsigned (R13). -/

namespace Sys2Proof

/-- A data byte or a response byte (R9). -/
abbrev Byte := BitVec 8

/-- Half a byte: an index and an entry of SBOX and RSBOX (R9, R17, R18). -/
abbrev Nibble := BitVec 4

/-- A bit position in a byte: an index and an entry of PBOX and RPBOX (R9, R19, R20). -/
abbrev BitPos := BitVec 3

/-- The operation select, port `req_op` (R28, R50). -/
abbrev OpSelect := BitVec 2

/-- The request word REQ (R48, R49). -/
abbrev ReqWord := BitVec 10

/-- The indices of the nibble index space, in rising order: 0..16 (R12, R34). -/
def nibbles : List Nibble := [0, 1, 2, 3, 4, 5, 6, 7, 8, 9, 10, 11, 12, 13, 14, 15]

/-- The indices of the bit-position space, in rising order: 0..8 (R12, R34). -/
def bitPositions : List BitPos := [0, 1, 2, 3, 4, 5, 6, 7]

end Sys2Proof
end

