-- ==== Sys2Proof/Config.lean ====
section
/-! DEFINITION. What an implementation fixes: the four tables (spec/00_scope.md R8), LATENCY (R9), and the
choices of timing that the spec leaves to the build. What the spec leaves open is an opaque constant
without a body, so no proof can rest on a value of it. -/

namespace Sys2Proof

/-- The parameter `cfg = (SBOX, RSBOX, PBOX, RPBOX)` of R8: 16 entries of 4 bits, twice, and 8 entries of
3 bits, twice. A table of the wrong length or with an entry out of range cannot be written (R21, R91). -/
structure Tables where
  sbox : Vector Nibble 16
  rsbox : Vector Nibble 16
  pbox : Vector BitPos 8
  rpbox : Vector BitPos 8
  deriving DecidableEq, Repr

/-- The tables of a permutation of the nibbles and one of the bit positions, with their inverses (R27). -/
def Tables.ofPerms (σ : Equiv.Perm Nibble) (π : Equiv.Perm BitPos) : Tables where
  sbox := Vector.ofFn fun i => σ (BitVec.ofFin i)
  rsbox := Vector.ofFn fun i => σ.symm (BitVec.ofFin i)
  pbox := Vector.ofFn fun i => π (BitVec.ofFin i)
  rpbox := Vector.ofFn fun i => π.symm (BitVec.ofFin i)

namespace Config

/-- FREE (log entry 1, DESIGN CHOICE, safe). SBOX is OPEN but for entry 0 (R17, D7): an unknown permutation of
the nibbles, which `sboxPerm` corrects at one entry. -/
opaque sboxChoice : Equiv.Perm Nibble

/-- FREE (log entry 1, DESIGN CHOICE, safe). PBOX is OPEN (R19, D7): an unknown permutation of the bit positions. -/
opaque pboxChoice : Equiv.Perm BitPos

/-- FREE (log entry 3, DESIGN CHOICE, safe). The OPEN parameter LATENCY (R9, R114, D6), any natural number. -/
opaque latency : Nat

/-- FREE (log entry 5, DESIGN CHOICE, safe). Whether in a given cycle the engine offers its oldest response
before LATENCY forces it to (R29, R114). -/
opaque offersEarly : Nat → Bool

/-- FREE (log entry 6, DESIGN CHOICE, safe). Whether in a given cycle an engine with requests in flight is
willing to accept one more (R29, R104). -/
opaque acceptsMore : Nat → Bool

/-- The installed SBOX as a permutation: the free one, with two entries exchanged so that entry 0 is 0x9
(R17). A permutation that has entry 0 = 0x9 already is left as it is. -/
def sboxPerm : Equiv.Perm Nibble := sboxChoice.trans (Equiv.swap (sboxChoice 0) 9)

/-- The installed tables (R16, R32). -/
def tables : Tables := Tables.ofPerms sboxPerm pboxChoice

end Config

end Sys2Proof
end

