-- ==== Sys2Proof/Machine/Operands.lean ====
section
/-! DEFINITION. The engine's operand forms: how a byte splits into nibbles and bits, how it is put together
again (spec/00_scope.md R10, R11; spec/30_encoding.md R51), and the lookups in the four tables
(spec/10_state.md R17 to R20). A lookup is total: its index has just the width of the table (R34). -/

namespace Sys2Proof

/-- `hi(b) = b[7:4]`, by shift and mask (R11, R63). -/
def hi (b : Byte) : Nibble := ((b >>> 4) &&& 0x0F#8).setWidth 4

/-- `lo(b) = b[3:0]`, by mask (R11, R63). -/
def lo (b : Byte) : Nibble := (b &&& 0x0F#8).setWidth 4

/-- `(h << 4) | l`, the byte of two nibbles (R63). -/
def joinNibbles (h l : Nibble) : Byte := (h.setWidth 8 <<< 4) ||| l.setWidth 8

/-- `(b >> j) & 1` as a byte, the bit that the loop of R71 extracts. -/
def bitAt (b : Byte) (j : BitPos) : Byte := (b >>> j.toNat) &&& 1#8

/-- `b[j]` as a truth value (R11). -/
def bitSet (b : Byte) (j : BitPos) : Bool := b.getLsbD j.toNat

/-- The byte with just bit `j` set, `1 << j` (R71). -/
def oneBit (j : BitPos) : Byte := 1#8 <<< j.toNat

/-- The number of 1 bits of a byte (R76). -/
def popcount (b : Byte) : Nat := bitPositions.countP fun j => bitSet b j

/-- `SBOX[x]`, the nibble-level lookup SubNibble (R17, R64). -/
def Tables.subNibble (t : Tables) (x : Nibble) : Nibble := t.sbox[x.toNat]'x.isLt

/-- `RSBOX[x]`, the nibble-level lookup InverseSubNibble (R18, R66). -/
def Tables.invSubNibble (t : Tables) (x : Nibble) : Nibble := t.rsbox[x.toNat]'x.isLt

/-- `PBOX[j]`, the destination of source bit `j` (R19). -/
def Tables.permPos (t : Tables) (j : BitPos) : BitPos := t.pbox[j.toNat]'j.isLt

/-- `RPBOX[j]` (R20). -/
def Tables.invPermPos (t : Tables) (j : BitPos) : BitPos := t.rpbox[j.toNat]'j.isLt

end Sys2Proof
end

