-- ==== Sys2Proof/Syntax.lean ====
section
/-! DEFINITION. The engine's instructions: one constructor per row of spec/opcode_table.json, each a request
for one byte operation (spec/30_encoding.md R49 to R51). -/

namespace Sys2Proof

/-- The four operations of R50, in the order of their codes. -/
inductive Op where
  | sub
  | isub
  | perm
  | iperm
  deriving DecidableEq, Repr

/-- A request: an operation and its only operand, one unsigned byte (R49, R51). There is no other form: no
key, no round count, no mode (R3, R5). -/
inductive Instr where
  /-- SUB, the Substitution Transform (R63). -/
  | sub (d : Byte)
  /-- ISUB, the Inverse Substitution Transform (R65). -/
  | isub (d : Byte)
  /-- PERM, the Permutation Transform (R71). -/
  | perm (d : Byte)
  /-- IPERM, the Inverse Permutation Transform (R73). -/
  | iperm (d : Byte)
  deriving DecidableEq, Repr

/-- The operation a request selects. -/
def Instr.op : Instr → Op
  | .sub _ => .sub
  | .isub _ => .isub
  | .perm _ => .perm
  | .iperm _ => .iperm

/-- The data byte a request carries (R51). -/
def Instr.data : Instr → Byte
  | .sub d => d
  | .isub d => d
  | .perm d => d
  | .iperm d => d

/-- The request for operation `op` on byte `d`. -/
def Instr.ofOp (op : Op) (d : Byte) : Instr :=
  match op with
  | .sub => .sub d
  | .isub => .isub d
  | .perm => .perm d
  | .iperm => .iperm d

end Sys2Proof
end

