-- ==== Sys2Proof/WellFormed.lean ====
section
/-! DEFINITION. What is well-formed. The tables of an engine: the construction-time check `WF(cfg)`
(spec/10_state.md R17 to R21) with the reason codes of a refusal (spec/60_exceptions.md R89, R91, R93), and the
configuration that carries the proof of it. A number as a request word (spec/30_encoding.md R49) or a data byte
(R56, R57). A term of `Instr` needs no check: every one of them is a request (R53). -/

namespace Sys2Proof

/-- `n` is a REQ word: it fits in 10 bits (R48, R49). -/
def reqWordFits (n : Nat) : Bool := decide (n < 1024)

/-- `n` is a data byte: it is in 0..256 (R12, R56). -/
def byteFits (n : Nat) : Bool := decide (n < 256)

/-- Every request is well-formed (R53): its operation is one of the four and its operand is a byte, which the
types say already. Stated through its numbers, so that the form of the REQ word is what is checked. -/
def Instr.wf (i : Instr) : Bool := byteFits i.data.toNat

/-- `WF_S(SBOX)`: every nibble value is the entry of exactly one index (R17). -/
def Tables.sboxBijective (t : Tables) : Bool :=
  nibbles.all fun v => nibbles.countP (fun x => t.subNibble x == v) == 1

/-- `INV_S(SBOX, RSBOX)`: each undoes the other (R18). -/
def Tables.rsboxInverse (t : Tables) : Bool :=
  nibbles.all fun x => t.invSubNibble (t.subNibble x) == x && t.subNibble (t.invSubNibble x) == x

/-- `WF_P(PBOX)`: every bit position is the entry of exactly one index (R19). -/
def Tables.pboxBijective (t : Tables) : Bool :=
  bitPositions.all fun d => bitPositions.countP (fun j => t.permPos j == d) == 1

/-- `INV_P(PBOX, RPBOX)`: each undoes the other (R20). -/
def Tables.rpboxInverse (t : Tables) : Bool :=
  bitPositions.all fun j => t.invPermPos (t.permPos j) == j && t.permPos (t.invPermPos j) == j

/-- `WF(cfg)`, all four conditions (R21). -/
def Tables.wf (t : Tables) : Bool :=
  t.sboxBijective && t.rsboxInverse && t.pboxBijective && t.rpboxInverse

/-- The reasons a configuration is refused (R91). -/
inductive RefusalCode where
  | sboxNotBijective
  | rsboxNotInverse
  | pboxNotBijective
  | rpboxNotInverse
  deriving DecidableEq, Repr

/-- The code of a reason (R91). -/
def RefusalCode.code : RefusalCode → Nat
  | .sboxNotBijective => 1
  | .rsboxNotInverse => 2
  | .pboxNotBijective => 3
  | .rpboxNotInverse => 4

/-- Every condition that fails, in increasing order of the codes (R93). -/
def Tables.failures (t : Tables) : List RefusalCode :=
  (if t.sboxBijective then [] else [.sboxNotBijective]) ++
  (if t.rsboxInverse then [] else [.rsboxNotInverse]) ++
  (if t.pboxBijective then [] else [.pboxNotBijective]) ++
  (if t.rpboxInverse then [] else [.rpboxNotInverse])

/-! What the conditions say of the lookups, as far as the installed tables need it. -/

theorem mem_nibbles (x : Nibble) : x ∈ nibbles := by
  revert x; decide

theorem mem_bitPositions (j : BitPos) : j ∈ bitPositions := by
  revert j; decide

theorem nodup_nibbles : nibbles.Nodup := by decide

theorem nodup_bitPositions : bitPositions.Nodup := by decide

/-- A function with a two-sided inverse takes each value exactly once along a list of all arguments. -/
theorem countP_eq_one_of_inverse {α : Type} [DecidableEq α] {l : List α} (hl : ∀ x, x ∈ l) (hn : l.Nodup)
    {f g : α → α} (hgf : ∀ x, g (f x) = x) (hfg : ∀ x, f (g x) = x) (v : α) :
    l.countP (fun x => f x == v) = 1 := by
  have h : (fun x => f x == v) = (fun x => x == g v) := by
    funext x
    have : f x = v ↔ x = g v := ⟨fun h => by rw [← h, hgf], fun h => by rw [h, hfg]⟩
    by_cases hx : x = g v
    · simp [hx, hfg]
    · simp [hx, this]
  rw [h]
  exact List.count_eq_one_of_mem hn (hl (g v))

theorem Tables.rsboxInverse_iff (t : Tables) :
    t.rsboxInverse = true ↔
      ∀ x, t.invSubNibble (t.subNibble x) = x ∧ t.subNibble (t.invSubNibble x) = x := by
  simp [Tables.rsboxInverse, mem_nibbles]

theorem Tables.rpboxInverse_iff (t : Tables) :
    t.rpboxInverse = true ↔
      ∀ j, t.invPermPos (t.permPos j) = j ∧ t.permPos (t.invPermPos j) = j := by
  simp [Tables.rpboxInverse, mem_bitPositions]

/-- If INV_S holds then so does WF_S: R93's derivation, read forwards. -/
theorem Tables.sboxBijective_of_inverse {t : Tables} (h : t.rsboxInverse = true) :
    t.sboxBijective = true := by
  have hi := t.rsboxInverse_iff.mp h
  simp only [Tables.sboxBijective, List.all_eq_true, beq_iff_eq]
  exact fun v _ => countP_eq_one_of_inverse mem_nibbles nodup_nibbles (fun x => (hi x).1) (fun x => (hi x).2) v

theorem Tables.pboxBijective_of_inverse {t : Tables} (h : t.rpboxInverse = true) :
    t.pboxBijective = true := by
  have hi := t.rpboxInverse_iff.mp h
  simp only [Tables.pboxBijective, List.all_eq_true, beq_iff_eq]
  exact fun v _ =>
    countP_eq_one_of_inverse mem_bitPositions nodup_bitPositions (fun x => (hi x).1) (fun x => (hi x).2) v

/-- `WF(cfg)` is the two inverse conditions: they carry the two others (R93). -/
theorem Tables.wf_iff_inverses (t : Tables) :
    t.wf = true ↔ t.rsboxInverse = true ∧ t.rpboxInverse = true := by
  simp only [Tables.wf, Bool.and_eq_true]
  exact ⟨fun ⟨⟨⟨_, a⟩, _⟩, b⟩ => ⟨a, b⟩,
    fun ⟨a, b⟩ => ⟨⟨⟨Tables.sboxBijective_of_inverse a, a⟩, Tables.pboxBijective_of_inverse b⟩, b⟩⟩

@[simp] theorem Tables.ofPerms_subNibble (σ : Equiv.Perm Nibble) (π : Equiv.Perm BitPos) (x : Nibble) :
    (Tables.ofPerms σ π).subNibble x = σ x := by
  simp only [Tables.subNibble, Tables.ofPerms, Vector.getElem_ofFn]; rfl

@[simp] theorem Tables.ofPerms_invSubNibble (σ : Equiv.Perm Nibble) (π : Equiv.Perm BitPos) (x : Nibble) :
    (Tables.ofPerms σ π).invSubNibble x = σ.symm x := by
  simp only [Tables.invSubNibble, Tables.ofPerms, Vector.getElem_ofFn]; rfl

@[simp] theorem Tables.ofPerms_permPos (σ : Equiv.Perm Nibble) (π : Equiv.Perm BitPos) (j : BitPos) :
    (Tables.ofPerms σ π).permPos j = π j := by
  simp only [Tables.permPos, Tables.ofPerms, Vector.getElem_ofFn]; rfl

@[simp] theorem Tables.ofPerms_invPermPos (σ : Equiv.Perm Nibble) (π : Equiv.Perm BitPos) (j : BitPos) :
    (Tables.ofPerms σ π).invPermPos j = π.symm j := by
  simp only [Tables.invPermPos, Tables.ofPerms, Vector.getElem_ofFn]; rfl

theorem Tables.ofPerms_wf (σ : Equiv.Perm Nibble) (π : Equiv.Perm BitPos) :
    (Tables.ofPerms σ π).wf = true := by
  rw [Tables.wf_iff_inverses, Tables.rsboxInverse_iff, Tables.rpboxInverse_iff]
  exact ⟨fun x => by simp, fun j => by simp⟩

/-- The installed tables pass the construction-time check, whatever the free constants are. -/
theorem Config.tables_wf : Config.tables.wf = true := Tables.ofPerms_wf _ _

/-- A configuration an engine can be built from: the tables TOGETHER WITH the proof of `WF(cfg)` (R89), so that
no engine with other tables can be written down. -/
structure Configuration where
  tables : Tables
  wf : tables.wf = true
  deriving DecidableEq, Repr

/-- `SBOX[0] = 0x9` (R17): what a well-formed configuration must also meet to be that of the source's hardware
(spec/95_test_vectors.md L2.5, last row). -/
def Configuration.isSource (c : Configuration) : Bool := c.tables.subNibble 0 == 9

/-- The configuration of the engine that State.reset describes: the installed tables, unknown but for
SBOX[0] (R16, R17, R32; log entry 1). -/
def Config.installed : Configuration := ⟨Config.tables, Config.tables_wf⟩

end Sys2Proof
end

