-- ==== Sys2Proof/Machine/State.lean ====
section
/-! DEFINITION. The engine's state: its tables (spec/10_state.md R16), the interface state (R28, R29, R32), and the
host's side as data (log entries 4 and 11). The engine has no registers, no program counter, no flags, no
control registers and no memory (R22 to R25, R35, R39). -/

namespace Sys2Proof.Machine

/-- The input ports in one clock cycle (R28), and whether the host reads `rsp_data` in it (R31). -/
structure Pins where
  rst : Bool
  reqValid : Bool
  reqOp : OpSelect
  reqData : Byte
  rspReady : Bool
  readsRspData : Bool
  deriving DecidableEq, Repr

/-- What the host does to the engine in one step (log entry 4). -/
inductive HostEvent where
  /-- One rising edge of `clk` with the input ports as given (R28). -/
  | clock (p : Pins)
  /-- Power or clock is removed (R103). -/
  | powerLoss
  deriving DecidableEq, Repr

/-- A request accepted whose response has not transferred (R29). `age` counts the clock edges since the edge
that accepted it: 1 in the first cycle after (R114). -/
structure InFlight where
  request : Instr
  response : Byte
  age : Nat
  deriving DecidableEq, Repr

/-- Everything the spec gives the machine, and the host's side. INVENTORY.md, '## State', lists each field with
its rule. -/
structure State where
  /-- The four tables with the proof that they are well-formed (R16, R21, R89). Nothing writes it (R26). -/
  cfg : Configuration
  /-- LATENCY, fixed when the engine is built (R9, R114). Nothing writes it. -/
  latency : Nat
  /-- The requests in flight, oldest first (R29). -/
  inFlight : List InFlight
  /-- `rsp_valid` as the engine's state gives it, where LATENCY >= 1 (R32, 90_conflicts.md C7). -/
  rspValid : Bool
  /-- `req_ready` as the engine's state gives it, where LATENCY >= 1: willing to accept (R32, C7). -/
  reqReady : Bool
  /-- The requests accepted since reset, in order (R44). -/
  accepted : List Instr
  /-- The responses transferred since reset, in order (R31, R44). -/
  received : List Byte
  /-- The host's record: responses transferred before the last reset (R106). -/
  kept : List Byte
  /-- The host's record: what its reads of `rsp_data` gave (R31). -/
  samples : List Byte
  /-- The host's events to come, the next first (log entry 4). -/
  script : List HostEvent
  /-- The clock edges so far: what the free choices of timing are applied to (log entry 8). -/
  cycle : Nat
  deriving DecidableEq, Repr

/-- Why a step stops with a fault. -/
inductive Fault where
  /-- The host read `rsp_data` where it holds no value: before the first response since reset, or with
  `rsp_valid = 0` (R31, 93_implementation_defined.md I8). Raised by the clock edge, for no instruction.
  SAFE: the machine stops where nothing is said of the value. -/
  | rspDataHoldsNoValue
  deriving DecidableEq, Repr

/-- Why the model gives no meaning. -/
inductive Refusal where
  /-- The configuration fails `WF(cfg)`: no engine is built from it (R89), for every reason listed (R91, R93).
  Raised by `boot` alone, never by a step. SAFE: nothing is claimed of a refused build. -/
  | configuration (codes : List RefusalCode)
  /-- An instruction without a meaning. Raised by no arm: all four have theirs. SAFE. -/
  | notModelled (mnemonic : String)
  deriving DecidableEq, Repr

/-- The engine of a given build in the first cycle after reset (R32, R107): nothing in flight, `rsp_valid = 0`,
`req_ready = 1`, no response yet; the tables as they were built (R108). The host's side is empty (log entries
4, 8, 11). -/
def State.afterReset (cfg : Configuration) (latency : Nat) : State where
  cfg := cfg
  latency := latency
  inFlight := []
  rspValid := false
  reqReady := true
  accepted := []
  received := []
  kept := []
  samples := []
  script := []
  cycle := 0

/-- The machine right after reset, with the installed tables and the build's LATENCY (R32; log entry 18). -/
def State.reset : State := State.afterReset Config.installed Config.latency

end Sys2Proof.Machine
end

