-- ==== Sys2Proof/Machine/Ops.lean ====
section
/-! DEFINITION. The named operations on the interface state: accepting a request, delivering a response, what a
reset and a loss of power do, and the passing of a clock edge. No operation writes a table (spec/10_state.md R26),
and there is no exception to take and none to return from (spec/60_exceptions.md R90, R94, R95). -/

namespace Sys2Proof.Machine

/-- The engine accepts request `i`, to which it will respond `r`: the last in flight, and the last accepted
since reset (R29, R41, R44; log entry 10). -/
def State.accept (s : State) (i : Instr) (r : Byte) : State :=
  { s with
    inFlight := s.inFlight ++ [{ request := i, response := r, age := 0 }]
    accepted := s.accepted ++ [i] }

/-- Where a response transfers, it is the oldest in flight, and it goes to the host (R28, R41). -/
def State.deliver (s : State) (transfers : Bool) : State :=
  { s with
    inFlight := if transfers then s.inFlight.tail else s.inFlight
    received := if transfers then s.received ++ (s.inFlight.head?.map InFlight.response).toList else s.received }

/-- The host has read the value `v`, if there is one, from `rsp_data` (R31). -/
def State.recordSample (s : State) (v : Option Byte) : State :=
  { s with samples := s.samples ++ v.toList }

/-- What the engine loses at reset, and at a loss of power: every request in flight (R103, R106). The counts
of requests and responses start again (R44), the responses that transferred stay with the host, and the next
cycle is the first after reset (R107). The tables stay (R108). -/
def State.dropRequests (s : State) : State :=
  { s with
    inFlight := []
    rspValid := false
    reqReady := true
    accepted := []
    received := []
    kept := s.kept ++ s.received }

/-- Whether a response of this age is due: LATENCY has passed since its request transferred (R104, R114). -/
def dueAt (latency : Nat) (e : InFlight) : Bool := decide (latency ≤ e.age)

/-- The engine's own part of a clock edge: every request in flight is one edge older, and `rsp_valid` and
`req_ready` take their values for the next cycle. A response is offered when it is due, or before if the build
so chooses (log entry 5). An engine with nothing in flight is willing, one with requests in flight if the build so
chooses (log entry 6). -/
def State.tick (s : State) : State :=
  let aged := s.inFlight.map fun e => { e with age := e.age + 1 }
  { s with
    inFlight := aged
    rspValid := match aged with
      | [] => false
      | e :: _ => dueAt s.latency e || Config.offersEarly s.cycle
    reqReady := aged.isEmpty || Config.acceptsMore s.cycle
    cycle := s.cycle + 1 }

end Sys2Proof.Machine
end

