-- ==== Sys2Proof/Machine/Permutation.lean ====
section
/-! DEFINITION. The bit-permutation family (spec/41_permutation.md): PERM and IPERM. No flag is written and no
exception raised (R71, R73). -/

namespace Sys2Proof.Machine

/-- The loop that R71 and R73 share: bit `j` of the byte goes to position `dest j`, for `j` in 0..8 in rising
order, gathered by OR. -/
def moveBits (dest : BitPos → BitPos) (d : Byte) : Byte :=
  bitPositions.foldl (fun out j => out ||| (bitAt d j <<< (dest j).toNat)) 0

/-- `PERM_byte(PBOX, d)`: source bit `j` goes to `PBOX[j]` (R71). It reads no other table (R78). -/
def permByte (t : Tables) (d : Byte) : Byte := moveBits t.permPos d

/-- `IPERM_byte(RPBOX, d)`: source bit `j` goes to `RPBOX[j]` (R73). It reads no other table (R78). -/
def ipermByte (t : Tables) (d : Byte) : Byte := moveBits t.invPermPos d

/-- PERM: the engine accepts the request and responds `PERM_byte(PBOX, d)` (R29, R54, R71). -/
def execPerm (d : Byte) (s : State) : Host.Outcome State Fault Refusal :=
  .next (s.accept (.perm d) (permByte s.cfg.tables d))

/-- IPERM: the engine accepts the request and responds `IPERM_byte(RPBOX, d)` (R29, R54, R73). -/
def execIperm (d : Byte) (s : State) : Host.Outcome State Fault Refusal :=
  .next (s.accept (.iperm d) (ipermByte s.cfg.tables d))

end Sys2Proof.Machine
end

