-- ==== Sys2Proof/Machine/Substitution.lean ====
section
/-! DEFINITION. The nibble-substitution family (spec/40_substitution.md): SUB and ISUB. No flag is written and no
exception raised (R63, R65). -/

namespace Sys2Proof.Machine

/-- `SUB_byte(SBOX, d)`: both nibbles through SBOX (R63). It reads no other table (R69). -/
def subByte (t : Tables) (d : Byte) : Byte := joinNibbles (t.subNibble (hi d)) (t.subNibble (lo d))

/-- `ISUB_byte(RSBOX, d)`: both nibbles through RSBOX (R65). It reads no other table (R69). -/
def isubByte (t : Tables) (d : Byte) : Byte := joinNibbles (t.invSubNibble (hi d)) (t.invSubNibble (lo d))

/-- SUB: the engine accepts the request and responds `SUB_byte(SBOX, d)` (R29, R54, R63). -/
def execSub (d : Byte) (s : State) : Host.Outcome State Fault Refusal :=
  .next (s.accept (.sub d) (subByte s.cfg.tables d))

/-- ISUB: the engine accepts the request and responds `ISUB_byte(RSBOX, d)` (R29, R54, R65). -/
def execIsub (d : Byte) (s : State) : Host.Outcome State Fault Refusal :=
  .next (s.accept (.isub d) (isubByte s.cfg.tables d))

end Sys2Proof.Machine
end

