-- ==== Sys2Proof/Machine/Dispatch.lean ====
section
/-! DEFINITION. One arm per constructor of Instr (spec/30_encoding.md R50, R54), no wildcard. -/

namespace Sys2Proof.Machine

def exec (i : Instr) (s : State) : Host.Outcome State Fault Refusal :=
  match i with
  | .sub d => Sys2Proof.Machine.execSub d s
  | .isub d => Sys2Proof.Machine.execIsub d s
  | .perm d => Sys2Proof.Machine.execPerm d s
  | .iperm d => Sys2Proof.Machine.execIperm d s

end Sys2Proof.Machine
end

