-- ==== Sys2Proof/Decode.lean ====
section
/-! DEFINITION. The REQ word: decoding, total on all 1024 words (spec/30_encoding.md R49, R50, R53), and after it
the encoder. -/

namespace Sys2Proof

/-- Why a number is no REQ word. There is no other reason: no word is illegal or reserved (R53). -/
inductive DecodeReject where
  /-- The number does not fit in the 10 bits of a REQ word (R48). -/
  | widerThanReqWord
  deriving DecidableEq, Repr

/-- The operation of an `op` value: `op[1]` selects the family (0 substitution, 1 permutation), `op[0]` the
direction (0 forward, 1 inverse) (R50). -/
def Op.ofSelect (op : OpSelect) : Op :=
  match op.getLsbD 1, op.getLsbD 0 with
  | false, false => .sub
  | false, true => .isub
  | true, false => .perm
  | true, true => .iperm

/-- The `op` value of an operation (R50). -/
def Op.select : Op → OpSelect
  | .sub => 0
  | .isub => 1
  | .perm => 2
  | .iperm => 3

/-- The field `op = w[9:8]` (R49). -/
def selectField (w : ReqWord) : OpSelect := w.extractLsb' 8 2

/-- The field `d = w[7:0]` (R49). -/
def dataField (w : ReqWord) : Byte := w.extractLsb' 0 8

/-- The word that the ports `req_op` and `req_data` carry together: `(op << 8) | d` (R28, R48, R49). -/
def reqWordOf (op : OpSelect) (d : Byte) : ReqWord := (op.setWidth 10 <<< 8) ||| d.setWidth 10

/-- The request a REQ word selects (R53, R54, R55). -/
def decode (w : ReqWord) : Instr := Instr.ofOp (Op.ofSelect (selectField w)) (dataField w)

/-- Decoding of any number: a REQ word's request, or the reason it is no REQ word. -/
def decodeNat (n : Nat) : Except DecodeReject Instr :=
  if reqWordFits n then .ok (decode (BitVec.ofNat 10 n)) else .error .widerThanReqWord

/-- `encode(op, d)` (R49). -/
def encode (i : Instr) : ReqWord := reqWordOf i.op.select i.data

/-- The instruction the decoder reads from the bits `w`, of which `nbits` are given (log entry 15). -/
def decodeTableWord (nbits w : Nat) : Option Instr :=
  match decodeNat (w % 2 ^ nbits) with
  | .ok i => some i
  | .error _ => none

end Sys2Proof
end

