-- ==== Sys2Proof/Machine/Response.lean ====
section
/-! DEFINITION. The operation function `F` (spec/30_encoding.md R54), as a function of the configuration and the
request alone. The meanings of the instructions do not call it: that they respond with it is proved. -/

namespace Sys2Proof.Machine

/-- `F(cfg, op, d)` (R54): an arm for each operation, and no wildcard. A `cfg` comes with `WF(cfg)`. -/
def respond (cfg : Configuration) (i : Instr) : Byte :=
  match i with
  | .sub d => subByte cfg.tables d
  | .isub d => isubByte cfg.tables d
  | .perm d => permByte cfg.tables d
  | .iperm d => ipermByte cfg.tables d

end Sys2Proof.Machine
end

