-- ==== Sys2Proof/Machine/Ports.lean ====
section
/-! DEFINITION. The ports in one clock cycle (spec/10_state.md R28): the outputs as functions of the state and the
inputs, and what transfers on the edge that ends the cycle. With LATENCY = 0 the outputs follow the inputs
(spec/70_reset_and_hazards.md R115), else the state (R32, 90_conflicts.md C7). -/

namespace Sys2Proof.Machine

/-- The host offers nothing, takes nothing and reads nothing: an idle cycle (R33, R61). -/
def Pins.idle : Pins :=
  { rst := false, reqValid := false, reqOp := 0, reqData := 0, rspReady := false, readsRspData := false }

/-- The host offers the word `w` and can take a response (R28, R49). -/
def Pins.request (w : ReqWord) : Pins :=
  { rst := false, reqValid := true, reqOp := selectField w, reqData := dataField w, rspReady := true,
    readsRspData := false }

/-- The request that the ports `req_op` and `req_data` carry (R28, R48). -/
def Pins.instr (p : Pins) : Instr := decode (reqWordOf p.reqOp p.reqData)

/-- The output `rsp_valid` (R28): 0 in reset (R105), `req_valid` in the combinational form (R115), else what the
state gives. -/
def rspValidOut (s : State) (p : Pins) : Bool :=
  !p.rst && if s.latency = 0 then p.reqValid else s.rspValid

/-- The output `req_ready` (R28): 0 in reset (R105). While the host can take a response, an engine that is willing
accepts, and the combinational form always does (R115). While the host stalls, an engine accepts if it is willing and
has fewer than LATENCY requests in flight (R104; log entry 7), which the combinational form never has. -/
def reqReadyOut (s : State) (p : Pins) : Bool :=
  !p.rst &&
    if p.rspReady then s.reqReady || decide (s.latency = 0)
    else s.reqReady && decide (s.inFlight.length < s.latency)

/-- The output `rsp_data` (R28): no value where `rsp_valid = 0` (R31). In the combinational form F of the request on
the ports (R115), else the oldest response in flight (R41). -/
def rspData (s : State) (p : Pins) : Option Byte :=
  if rspValidOut s p then
    if s.latency = 0 then some (respond s.cfg p.instr) else s.inFlight.head?.map InFlight.response
  else none

/-- A request transfers: `req_valid` and `req_ready` are 1 and `rst` is 0 (R28). -/
def reqTransfers (s : State) (p : Pins) : Bool := p.reqValid && reqReadyOut s p && !p.rst

/-- A response transfers: `rsp_valid` and `rsp_ready` are 1 and `rst` is 0 (R28). -/
def rspTransfers (s : State) (p : Pins) : Bool := rspValidOut s p && p.rspReady && !p.rst

/-- A read of `rsp_data` in this cycle gives a value: `rsp_valid` is 1, and a response has transferred since reset
(R31; log entry 9). -/
def rspReadable (s : State) (p : Pins) : Bool := (rspData s p).isSome && !s.received.isEmpty

end Sys2Proof.Machine
end

