-- ==== Sys2Proof/Machine/Clock.lean ====
section
/-! DEFINITION. One event of the host: a rising edge of `clk`, or a loss of power. On an edge the request that
transfers is executed and the response that transfers is delivered (spec/10_state.md R28, R29). -/

namespace Sys2Proof.Machine

/-- The instruction that transfers on this edge, if one does (R28, R54). -/
def fetched (s : State) (p : Pins) : Option Instr := if reqTransfers s p then some p.instr else none

/-- What an edge does after the request, if any, has been accepted: the response that transfers leaves, the host's
read is recorded, the engine moves to its next cycle. `s` is the state before the edge, whose ports decide; `t` is
the state with the request accepted (log entry 17). -/
def finishEdge (s : State) (p : Pins) (t : State) : State :=
  ((t.deliver (rspTransfers s p)).recordSample (if p.readsRspData then rspData s p else none)).tick

/-- The rest of the edge, where executing the request gave a next state. -/
def afterExec (s : State) (p : Pins) : Host.Outcome State Fault Refusal → Host.Outcome State Fault Refusal
  | .next t => .next (finishEdge s p t)
  | .fault f => .fault f
  | .refused r => .refused r

/-- A rising edge of `clk`. A read of `rsp_data` where it holds no value faults (R31). With `rst = 1` nothing
transfers and the requests in flight are dropped (R105, R106). Else the request that transfers is executed. -/
def clockEdge (p : Pins) (s : State) : Host.Outcome State Fault Refusal :=
  if p.readsRspData && !rspReadable s p then .fault .rspDataHoldsNoValue
  else if p.rst then .next { s.dropRequests with cycle := s.cycle + 1 }
  else
    match fetched s p with
    | none => .next (finishEdge s p s)
    | some i => afterExec s p (exec i s)

/-- A loss of power or clock: the requests in flight are lost, as at reset, and the tables survive (R103; log
entry 12). -/
def losePower (s : State) : Host.Outcome State Fault Refusal := .next s.dropRequests

/-- What one event of the host does. -/
def hostEvent (e : HostEvent) (s : State) : Host.Outcome State Fault Refusal :=
  match e with
  | .clock p => clockEdge p s
  | .powerLoss => losePower s

/-- The host's next event: the head of its script, and an idle cycle where the script is empty (R33, R61). -/
def State.nextEvent (s : State) : HostEvent := s.script.headD (.clock Pins.idle)

/-- The state once the host's next event has left its script. -/
def State.popEvent (s : State) : State := { s with script := s.script.tail }

/-- The state in which the host offers the word `w` in the very next cycle and can take a response, and the engine is
willing to accept it (log entry 15). -/
def State.withRequest (s : State) (w : ReqWord) : State :=
  { s with script := .clock (Pins.request w) :: s.script, reqReady := true }

end Sys2Proof.Machine
end

