-- ==== Sys2Proof/Machine/Step.lean ====
section
/-! DEFINITION. One step: the host's next event happens to the engine (log entry 4). -/

namespace Sys2Proof.Machine

/-- One step of the machine: the next event leaves the host's script and has its effect. -/
def step (s : State) : Host.Outcome State Fault Refusal := hostEvent s.nextEvent s.popEvent

/-- `s` with the instruction whose bits are `w` offered by the host in the very next cycle, where the engine accepts
it. DESIGN CHOICE (log entry 15): the ports carry 10 bits, so of a number of 1024 or more, which is no REQ word and which
`decodeTableWord` refuses, the low 10 bits are offered. -/
def State.withFetchWord (s : State) (nbits w : Nat) : State :=
  s.withRequest (BitVec.ofNat 10 (w % 2 ^ nbits))

end Sys2Proof.Machine
end

