-- ==== Sys2Proof/Machine/Sequence.lean ====
section
/-! DEFINITION. Byte sequences and the driver's pipelines (spec/42_sequence.md), as the host composes them of single
requests (spec/30_encoding.md R59, R60). The engine itself knows no sequence: it sees one request at a time (R86). -/

namespace Sys2Proof.Machine

/-- `OP_byte` of an operation (R79). -/
def opByte (cfg : Configuration) (op : Op) (d : Byte) : Byte := respond cfg (Instr.ofOp op d)

/-- `OP_seq(B)`, element by element (R79). -/
def opSeq (cfg : Configuration) (op : Op) (bytes : List Byte) : List Byte := bytes.map (opByte cfg op)

/-- The requests of a sequence form, in index order (R59). -/
def requests (op : Op) (bytes : List Byte) : List Instr := bytes.map (Instr.ofOp op)

/-- The events of a host that offers the requests back to back and takes every response at once (R112). -/
def backToBack (is : List Instr) : List HostEvent := is.map fun i => .clock (Pins.request (encode i))

/-- A cycle in which the host offers nothing and takes a response, if there is one (R104). -/
def Pins.take : Pins := { Pins.idle with rspReady := true }

/-- The events of a host that takes every response at once and waits `latency` cycles after each request (R112, R114). -/
def paced (latency : Nat) (is : List Instr) : List HostEvent :=
  is.flatMap fun i => .clock (Pins.request (encode i)) :: List.replicate latency (.clock Pins.take)

/-- The forward pipeline `FWD(B)`: substitution first, then permutation (R83). -/
def fwd (cfg : Configuration) (bytes : List Byte) : List Byte := opSeq cfg .perm (opSeq cfg .sub bytes)

/-- The reverse pipeline `REV(C)`: inverse permutation first, then inverse substitution (R84). -/
def rev (cfg : Configuration) (bytes : List Byte) : List Byte := opSeq cfg .isub (opSeq cfg .iperm bytes)

/-- The wrong-order reverse `WRONG(C)`, a host composition and no operation of the engine (R85). -/
def wrongRev (cfg : Configuration) (bytes : List Byte) : List Byte := opSeq cfg .iperm (opSeq cfg .isub bytes)

/-- The 12-byte sequence H of literal example 3 (spec/95_test_vectors.md L1.3). -/
def hello : List Byte := [72, 101, 108, 108, 111, 32, 119, 111, 114, 108, 100, 33]

/-- `ORDER_SENSITIVE(cfg)`: a named property, not a law (R85, D23). -/
def orderSensitive (cfg : Configuration) : Bool := wrongRev cfg (fwd cfg hello) != hello

/-- The pseudo-instructions: the sequence form of each operation, FWD and REV. There are no others (R59 to R61). -/
inductive Pseudo where
  | seq (op : Op) (bytes : List Byte)
  | fwd (bytes : List Byte)
  | rev (bytes : List Byte)
  deriving DecidableEq, Repr

/-- The stages of a pseudo-instruction, in the order the host issues them (R59, R60). -/
def Pseudo.stages : Pseudo → List Op
  | .seq op _ => [op]
  | .fwd _ => [.sub, .perm]
  | .rev _ => [.iperm, .isub]

/-- The operand of a pseudo-instruction. -/
def Pseudo.bytes : Pseudo → List Byte
  | .seq _ bytes => bytes
  | .fwd bytes => bytes
  | .rev bytes => bytes

/-- The requests of the stages: a stage's operands are the responses of the stage before (R60). -/
def stageRequests (cfg : Configuration) : List Op → List Byte → List Instr
  | [], _ => []
  | op :: ops, bytes => requests op bytes ++ stageRequests cfg ops (opSeq cfg op bytes)

/-- The requests a host issues for a pseudo-instruction (R59, R60). -/
def Pseudo.requests (cfg : Configuration) (p : Pseudo) : List Instr := stageRequests cfg p.stages p.bytes

/-- The result of a pseudo-instruction: the responses of its last stage (R59, R60). -/
def Pseudo.result (cfg : Configuration) (p : Pseudo) : List Byte :=
  p.stages.foldl (fun bytes op => opSeq cfg op bytes) p.bytes

end Sys2Proof.Machine
end

