-- ==== Sys2Proof/Machine/Assembler.lean ====
section
/-! DEFINITION. The assembler and the disassembler (spec/30_encoding.md R56 to R61), on lists of characters. What R56
leaves open of the spelling is log entry 14. -/

namespace Sys2Proof.Machine

/-- Why the assembler refuses a line. The first five are R57's, the last is for an operand that is no byte by R56. -/
inductive AsmError where
  | unknownMnemonic
  | byteOutOfRange
  | missingOperand
  | secondOperand
  | roundKeyOrModeOperand
  | malformedOperand
  deriving DecidableEq, Repr

/-- The pieces a line is cut into. `openText` is a string operand without its closing quote. -/
inductive Token where
  | word (cs : List Char)
  | text (cs : List Char)
  | openText (cs : List Char)
  | openList
  | closeList
  | comma
  deriving DecidableEq, Repr

/-- The token of the characters gathered so far, last first, if there are any. -/
def flushWord (cur : List Char) : List Token :=
  match cur with
  | [] => []
  | _ => [.word cur.reverse]

/-- Cuts a line into tokens. `inText` holds the characters of an open string operand, last first. DESIGN CHOICE (log
entry 14): blanks separate words, but none is needed before or after a bracket, a comma or a quote, and any number may
stand there; a string operand has no escape, so the next quote closes it and its text holds none. -/
def tokenize (inText : Option (List Char)) (cur : List Char) : List Char → List Token
  | [] =>
    match inText with
    | none => flushWord cur
    | some t => [.openText t.reverse]
  | c :: cs =>
    match inText with
    | some t => if c = '"' then .text t.reverse :: tokenize none [] cs else tokenize (some (c :: t)) [] cs
    | none =>
      if c = ' ' then flushWord cur ++ tokenize none [] cs
      else if c = ',' then flushWord cur ++ .comma :: tokenize none [] cs
      else if c = '[' then flushWord cur ++ .openList :: tokenize none [] cs
      else if c = ']' then flushWord cur ++ .closeList :: tokenize none [] cs
      else if c = '"' then flushWord cur ++ tokenize (some []) [] cs
      else tokenize none (c :: cur) cs

/-- The tokens of a line. -/
def tokens (line : List Char) : List Token := tokenize none [] line

/-- The mnemonic of an operation, in upper case (R50, R56). -/
def Op.mnemonic : Op → List Char
  | .sub => ['S', 'U', 'B']
  | .isub => ['I', 'S', 'U', 'B']
  | .perm => ['P', 'E', 'R', 'M']
  | .iperm => ['I', 'P', 'E', 'R', 'M']

/-- A mnemonic read in upper or in lower case (R56). -/
def spells (cs name : List Char) : Bool := cs == name || cs == name.map Char.toLower

/-- The operation a mnemonic names (R56). -/
def parseOp (cs : List Char) : Option Op := [Op.sub, .isub, .perm, .iperm].find? fun op => spells cs (Op.mnemonic op)

/-- The value of a decimal digit. -/
def decDigit (c : Char) : Option Nat := if '0' ≤ c ∧ c ≤ '9' then some (c.toNat - '0'.toNat) else none

/-- The value of a hex digit, in either case. -/
def hexDigit (c : Char) : Option Nat :=
  if '0' ≤ c ∧ c ≤ '9' then some (c.toNat - '0'.toNat)
  else if 'a' ≤ c ∧ c ≤ 'f' then some (c.toNat - 'a'.toNat + 10)
  else if 'A' ≤ c ∧ c ≤ 'F' then some (c.toNat - 'A'.toNat + 10)
  else none

/-- The number that digits of a base spell, from the value read so far. -/
def readDigits (base : Nat) (digit : Char → Option Nat) (acc : Nat) : List Char → Option Nat
  | [] => some acc
  | c :: cs =>
    match digit c with
    | none => none
    | some v => readDigits base digit (acc * base + v) cs

/-- A number as a data byte, refused outside 0..256 (R56, R57). -/
def byteOfNat (n : Nat) : Except AsmError Byte :=
  if byteFits n then .ok (BitVec.ofNat 8 n) else .error .byteOutOfRange

/-- The number a word spells: `0x` and one or more hex digits, or decimal digits. -/
def parseMagnitude (cs : List Char) : Option Nat :=
  match cs with
  | [] => none
  | ['0', 'x'] => none
  | '0' :: 'x' :: hs => readDigits 16 hexDigit 0 hs
  | ds => readDigits 10 decDigit 0 ds

/-- A hex number of more than two digits, which R56 does not provide for even where its value is a byte. -/
def tooManyHexDigits : List Char → Bool
  | '0' :: 'x' :: hs => decide (2 < hs.length)
  | _ => false

/-- A byte operand: decimal, or `0x` and one or two hex digits (R56). A number outside 0..256 is refused as such, a
negative one among them (R57). -/
def parseByte (cs : List Char) : Except AsmError Byte :=
  match cs with
  | '-' :: ds =>
    match parseMagnitude ds with
    | none => .error .malformedOperand
    | some 0 => .error .malformedOperand
    | some (_ + 1) => .error .byteOutOfRange
  | _ =>
    match parseMagnitude cs with
    | none => .error .malformedOperand
    | some n => if byteFits n && tooManyHexDigits cs then .error .malformedOperand else byteOfNat n

/-- A round count, key or mode operand: a word with `=` in it, wherever it stands after the mnemonic (R57; DESIGN
CHOICE, log entry 14). -/
def Token.isSetting : Token → Bool
  | .word cs => cs.contains '='
  | _ => false

/-- A token that begins an operand. -/
def Token.beginsOperand : Token → Bool
  | .word _ => true
  | .text _ => true
  | .openText _ => true
  | .openList => true
  | .closeList => false
  | .comma => false

/-- The forms of an operand: one word, the tokens of a list between its brackets, or the text of a string (R56, R59). -/
inductive Operand where
  | byte (cs : List Char)
  | list (items : List Token)
  | text (cs : List Char)
  deriving DecidableEq, Repr

/-- The tokens before the first closing bracket, and those after it. -/
def splitList : List Token → Option (List Token × List Token)
  | [] => none
  | .closeList :: rest => some ([], rest)
  | t :: ts =>
    match splitList ts with
    | none => none
    | some (items, rest) => some (t :: items, rest)

/-- The first operand of a line, and the tokens after it. -/
def firstOperand : List Token → Except AsmError (Operand × List Token)
  | [] => .error .missingOperand
  | .word cs :: rest => .ok (.byte cs, rest)
  | .text cs :: rest => .ok (.text cs, rest)
  | .openList :: ts =>
    match splitList ts with
    | none => .error .malformedOperand
    | some (items, rest) => .ok (.list items, rest)
  | _ => .error .malformedOperand

/-- The one operand of a line, whatever its form, with R57's refusals of everything else after the mnemonic: a round
count, key or mode operand, no operand, a second operand. -/
def soleOperand (ts : List Token) : Except AsmError Operand :=
  if ts.any Token.isSetting then .error .roundKeyOrModeOperand
  else
    match firstOperand ts with
    | .error e => .error e
    | .ok (operand, []) => .ok operand
    | .ok (_, rest) => .error (if rest.any Token.beginsOperand then .secondOperand else .malformedOperand)

/-- The operand of an instruction line: one byte (R56). A list or a string is no operand of one. -/
def parseOperand (ts : List Token) : Except AsmError Byte :=
  match soleOperand ts with
  | .error e => .error e
  | .ok (.byte cs) => parseByte cs
  | .ok (.list _) => .error .malformedOperand
  | .ok (.text _) => .error .malformedOperand

/-- An instruction line, `<mnemonic> <byte>` (R56), or the refusal by name (R57). DESIGN CHOICE (log entry 14): a line
that does not begin with a word, a blank one among them, has no mnemonic and is refused as unknownMnemonic. -/
def assemble (line : List Char) : Except AsmError Instr :=
  match tokens line with
  | .word m :: rest =>
    match parseOp m with
    | none => .error .unknownMnemonic
    | some op =>
      match parseOperand rest with
      | .ok d => .ok (Instr.ofOp op d)
      | .error e => .error e
  | _ => .error .unknownMnemonic

/-- The elements of a list operand that is not empty: bytes with a comma between each two (R59). -/
def parseItems : List Token → Except AsmError (List Byte)
  | [.word cs] =>
    match parseByte cs with
    | .ok d => .ok [d]
    | .error e => .error e
  | .word cs :: .comma :: rest =>
    match parseByte cs, parseItems rest with
    | .ok d, .ok ds => .ok (d :: ds)
    | .error e, _ => .error e
    | _, .error e => .error e
  | _ => .error .malformedOperand

/-- The codes of a string operand's characters, each a byte (R59). DESIGN CHOICE (log entry 14): the code of a character
is its Unicode code point, which the spec shows of ASCII characters only; one of 256 or more is out of range. -/
def charCodes : List Char → Except AsmError (List Byte)
  | [] => .ok []
  | c :: cs =>
    match byteOfNat c.toNat, charCodes cs with
    | .ok d, .ok ds => .ok (d :: ds)
    | .error e, _ => .error e
    | _, .error e => .error e

/-- The operand of a pseudo-instruction: a list, which may be empty, a string, or a single byte (R59, R60). -/
def parseSeqOperand (ts : List Token) : Except AsmError (List Byte) :=
  match soleOperand ts with
  | .error e => .error e
  | .ok (.byte cs) =>
    match parseByte cs with
    | .ok d => .ok [d]
    | .error e => .error e
  | .ok (.list []) => .ok []
  | .ok (.list items) => parseItems items
  | .ok (.text cs) => charCodes cs

/-- What the mnemonic of a pseudo-instruction makes of its operand: the sequence form of an operation, FWD or REV
(R59, R60). There are no others (R61). -/
def parsePseudoMnemonic (m : List Char) : Option (List Byte → Pseudo) :=
  match parseOp m with
  | some op => some (Pseudo.seq op)
  | none =>
    if spells m ['F', 'W', 'D'] then some Pseudo.fwd
    else if spells m ['R', 'E', 'V'] then some Pseudo.rev
    else none

/-- A line of the assembler with the pseudo-instructions (R59, R60). A single byte is the sequence of it. DESIGN CHOICE
(log entry 14): a line that does not begin with a word is refused as unknownMnemonic, as by `assemble`. -/
def assemblePseudo (line : List Char) : Except AsmError Pseudo :=
  match tokens line with
  | .word m :: rest =>
    match parsePseudoMnemonic m with
    | none => .error .unknownMnemonic
    | some make =>
      match parseSeqOperand rest with
      | .ok bytes => .ok (make bytes)
      | .error e => .error e
  | _ => .error .unknownMnemonic

/-- A lower-case hex digit (R58). -/
def lowerHex (x : Nibble) : Char :=
  ['0', '1', '2', '3', '4', '5', '6', '7', '8', '9', 'a', 'b', 'c', 'd', 'e', 'f'].getD x.toNat '0'

/-- The printing of a REQ word, `<mnemonic> 0x<hh>` (R58). -/
def disassemble (w : ReqWord) : List Char :=
  Op.mnemonic (Op.ofSelect (selectField w)) ++ [' ', '0', 'x'] ++ [lowerHex (hi (dataField w)), lowerHex (lo (dataField w))]

end Sys2Proof.Machine
end

