-- ==== Sys2Proof/Machine/Boot.lean ====
section
/-! DEFINITION. Building an engine (spec/70_reset_and_hazards.md R109): fix the tables, check them, refuse the build if
the check fails (spec/60_exceptions.md R89), hold `rst`, release it. -/

namespace Sys2Proof.Machine

/-- The engine built from `tables` with the given LATENCY, in its first cycle after reset; or the refusal, with every
reason (R89, R91, R93, R109). -/
def boot (tables : Tables) (latency : Nat) : Host.Outcome State Fault Refusal :=
  if h : tables.wf = true then .next (State.afterReset ⟨tables, h⟩ latency)
  else .refused (.configuration tables.failures)

end Sys2Proof.Machine
end

