-- ==== Sys2Proof/Safety.lean ====
section
/-! DEFINITION. What claims about the whole machine are stated in: the pairing of responses with requests
(spec/20_memory.md R41, R44), the discipline of the interface state (spec/60_exceptions.md R104,
spec/70_reset_and_hazards.md R107), and a host that does its part (R104). -/

namespace Sys2Proof.Machine

/-- Every response since reset, those that have transferred and then those in flight, is F of the accepted request
of the same number; and the requests in flight are the last accepted (R41, R44). -/
def Paired (s : State) : Prop :=
  s.received ++ s.inFlight.map InFlight.response = s.accepted.map (respond s.cfg) ∧
  s.inFlight.map InFlight.request = s.accepted.drop s.received.length

/-- The discipline of the interface state between two clock edges. At most LATENCY requests are in flight, so none in
the combinational form (R115); they were accepted on different edges, the oldest first (R29); a response is offered
only if there is one, and is offered when it is due (R104, R114); an idle engine is willing to accept (R107). -/
def Disciplined (s : State) : Prop :=
  s.inFlight.length ≤ s.latency ∧
  (s.inFlight.map InFlight.age).Pairwise (· > ·) ∧
  (∀ e ∈ s.inFlight, 1 ≤ e.age) ∧
  (s.rspValid = true → s.inFlight ≠ []) ∧
  (∀ e ∈ s.inFlight.head?, s.latency ≤ e.age → s.rspValid = true) ∧
  (s.inFlight = [] → s.reqReady = true)

/-- The tables are those of the source's hardware as far as the source gives them: SBOX[0] = 0x9 (R17). -/
def SourceTables (s : State) : Prop := s.cfg.isSource = true

/-- A host that takes every response: no reset, `rsp_ready` held at 1, no read of `rsp_data` besides (R104). -/
def Pins.takes (p : Pins) : Prop := p.rst = false ∧ p.rspReady = true ∧ p.readsRspData = false

/-- The read of `rsp_data` in this cycle, if there is one, is of a value (R31). -/
def Pins.readsSafely (p : Pins) (s : State) : Prop := p.readsRspData = true → rspReadable s p = true

end Sys2Proof.Machine
end

