-- ==== Sys2Proof/Certificates/Slice0/Obligations.lean ====
section
/-! DEFINITION. The statements for the provers, from the numbered rules of spec/. A statement about a State holds for every
well-formed configuration and every LATENCY, since both are fields of it. -/

open Sys2Proof Sys2Proof.Machine

/-! ## What each instruction does -/

/-- R63, SUB: it completes in every state with the response of the pseudocode, as the last request in flight and
nothing else changed; its encoding; its corner cases; and that neither a fixed point nor the absence of one follows
from what the source gives. -/
def Obligations.SubRespondsWithSboxOfBothNibbles : Prop :=
  (∀ (s : State) (d : Byte),
    exec (.sub d) s = .next { s with
      inFlight := s.inFlight ++ [{
        request := .sub d
        response := ((s.cfg.tables.sbox[(hi d).toNat]'(hi d).isLt).setWidth 8 <<< 4) |||
          (s.cfg.tables.sbox[(lo d).toNat]'(lo d).isLt).setWidth 8
        age := 0 }]
      accepted := s.accepted ++ [.sub d] }) ∧
  (∀ d, encode (.sub d) &&& 0x300 = 0x000) ∧
  (∀ c : Configuration, c.isSource = true → subByte c.tables 0x00 = 0x99) ∧
  (∀ (t : Tables) (d : Byte), hi d = lo d →
    hi (subByte t d) = t.subNibble (hi d) ∧ lo (subByte t d) = t.subNibble (hi d)) ∧
  (∀ (t : Tables) (d e : Byte),
    (hi d = hi e → hi (subByte t d) = hi (subByte t e)) ∧ (lo d = lo e → lo (subByte t d) = lo (subByte t e))) ∧
  (∃ c : Configuration, c.isSource = true ∧ ∃ d, subByte c.tables d = d) ∧
  (∃ c : Configuration, c.isSource = true ∧ ∀ d, subByte c.tables d ≠ d)

/-- R65, ISUB: it completes in every state with the response of the pseudocode; its encoding; its corner cases. -/
def Obligations.IsubRespondsWithRsboxOfBothNibbles : Prop :=
  (∀ (s : State) (d : Byte),
    exec (.isub d) s = .next { s with
      inFlight := s.inFlight ++ [{
        request := .isub d
        response := ((s.cfg.tables.rsbox[(hi d).toNat]'(hi d).isLt).setWidth 8 <<< 4) |||
          (s.cfg.tables.rsbox[(lo d).toNat]'(lo d).isLt).setWidth 8
        age := 0 }]
      accepted := s.accepted ++ [.isub d] }) ∧
  (∀ d, encode (.isub d) &&& 0x300 = 0x100) ∧
  (∀ c : Configuration, c.isSource = true → isubByte c.tables 0x99 = 0x00) ∧
  (∀ (c : Configuration) (x : Nibble), c.tables.subNibble x = 0 → isubByte c.tables 0x00 = joinNibbles x x) ∧
  (∀ (t : Tables) (d e : Byte),
    (hi d = hi e → hi (isubByte t d) = hi (isubByte t e)) ∧ (lo d = lo e → lo (isubByte t d) = lo (isubByte t e)))

/-- R71, PERM: it completes in every state with the response of the loop; its encoding; its corner cases, the order of
the loop among them. -/
def Obligations.PermRespondsWithBitsMovedByPbox : Prop :=
  (∀ (s : State) (d : Byte),
    exec (.perm d) s = .next { s with
      inFlight := s.inFlight ++ [{
        request := .perm d
        response := bitPositions.foldl
          (fun out j => out ||| (((d >>> j.toNat) &&& 1#8) <<< (s.cfg.tables.pbox[j.toNat]'j.isLt).toNat)) 0
        age := 0 }]
      accepted := s.accepted ++ [.perm d] }) ∧
  (∀ d, encode (.perm d) &&& 0x300 = 0x200) ∧
  (∀ c : Configuration, permByte c.tables 0x00 = 0x00 ∧ permByte c.tables 0xFF = 0xFF) ∧
  (∀ (c : Configuration) (j : BitPos), permByte c.tables (oneBit j) = oneBit (c.tables.permPos j)) ∧
  (∀ (t : Tables) (d : Byte), (∀ j, t.permPos j = j) → permByte t d = d) ∧
  (∀ (t : Tables) (d : Byte) (order : List BitPos), order.Perm bitPositions →
    order.foldl (fun out j => out ||| (bitAt d j <<< (t.permPos j).toNat)) 0 = permByte t d)

/-- R73, IPERM: it completes in every state with the response of the loop; its encoding; its corner cases. -/
def Obligations.IpermRespondsWithBitsMovedByRpbox : Prop :=
  (∀ (s : State) (d : Byte),
    exec (.iperm d) s = .next { s with
      inFlight := s.inFlight ++ [{
        request := .iperm d
        response := bitPositions.foldl
          (fun out j => out ||| (((d >>> j.toNat) &&& 1#8) <<< (s.cfg.tables.rpbox[j.toNat]'j.isLt).toNat)) 0
        age := 0 }]
      accepted := s.accepted ++ [.iperm d] }) ∧
  (∀ d, encode (.iperm d) &&& 0x300 = 0x300) ∧
  (∀ c : Configuration, ipermByte c.tables 0x00 = 0x00 ∧ ipermByte c.tables 0xFF = 0xFF) ∧
  (∀ (c : Configuration) (j : BitPos), ipermByte c.tables (oneBit j) = oneBit (c.tables.invPermPos j)) ∧
  (∀ (c : Configuration) (d : Byte), (∀ j, c.tables.permPos j = j) →
    (∀ j, c.tables.invPermPos j = j) ∧ ipermByte c.tables d = d)

/-- The frame of all four instructions (sub, isub, perm, iperm): no table, no output, no record and no event of the host
changes; one request is added in flight, behind those there, and counted. The engine has no memory (R35, R39). -/
def Obligations.ExecFrame : Prop :=
  ∀ (i : Instr) (s t : State), exec i s = .next t →
    t.cfg = s.cfg ∧ t.latency = s.latency ∧ t.rspValid = s.rspValid ∧ t.reqReady = s.reqReady ∧
    t.received = s.received ∧ t.kept = s.kept ∧ t.samples = s.samples ∧ t.script = s.script ∧ t.cycle = s.cycle ∧
    t.accepted = s.accepted ++ [i] ∧
    ∃ r, t.inFlight = s.inFlight ++ [{ request := i, response := r, age := 0 }]

/-- R54: F has an arm for each value of `op`, and it is what executing the request responds. -/
def Obligations.OperationFunctionHasFourArms : Prop :=
  (∀ (cfg : Configuration) (d : Byte),
    respond cfg (decode (reqWordOf 0b00 d)) = subByte cfg.tables d ∧
    respond cfg (decode (reqWordOf 0b01 d)) = isubByte cfg.tables d ∧
    respond cfg (decode (reqWordOf 0b10 d)) = permByte cfg.tables d ∧
    respond cfg (decode (reqWordOf 0b11 d)) = ipermByte cfg.tables d) ∧
  (∀ (i : Instr) (s : State), exec i s = .next (s.accept i (respond s.cfg i)))

/-- R30, R40: what a request responds depends on the configuration and the request alone: two engines with the same
tables, whatever else their states hold, add the same entry. -/
def Obligations.ResponseIndependentOfState : Prop :=
  ∀ (i : Instr) (s s' : State), s.cfg = s'.cfg →
    ∃ (e : InFlight) (t t' : State), exec i s = .next t ∧ exec i s' = .next t' ∧
      t.inFlight = s.inFlight ++ [e] ∧ t'.inFlight = s'.inFlight ++ [e]

/-- R10, R11, R51: what the operand forms are as numbers: the nibbles, a byte of two nibbles, a bit, and one bit set. The
other statements are written in these. -/
def Obligations.OperandFormsAsNumbers : Prop :=
  (∀ b : Byte, (hi b).toNat = b.toNat / 16 ∧ (lo b).toNat = b.toNat % 16) ∧
  (∀ h l : Nibble, (joinNibbles h l).toNat = h.toNat * 16 + l.toNat) ∧
  (∀ (b : Byte) (j : BitPos), (bitAt b j).toNat = b.toNat / 2 ^ j.toNat % 2 ∧
    bitSet b j = decide (b.toNat / 2 ^ j.toNat % 2 = 1)) ∧
  (∀ j : BitPos, (oneBit j).toNat = 2 ^ j.toNat)

/-! ## The substitution family -/

/-- R64, R66: the nibble-level lookups, in both lanes, undo each other; with the source's literal example 1. -/
def Obligations.NibbleLookupsInBothLanes : Prop :=
  (∀ (t : Tables) (d : Byte),
    subByte t d = joinNibbles (t.subNibble (hi d)) (t.subNibble (lo d)) ∧
    isubByte t d = joinNibbles (t.invSubNibble (hi d)) (t.invSubNibble (lo d))) ∧
  (∀ (c : Configuration) (x : Nibble), c.tables.invSubNibble (c.tables.subNibble x) = x) ∧
  (∀ c : Configuration, c.isSource = true → c.tables.subNibble 0x0 = 0x9 ∧ c.tables.invSubNibble 0x9 = 0x0)

/-- R67. -/
def Obligations.SubAndIsubUndoEachOther : Prop :=
  ∀ (c : Configuration) (d : Byte),
    isubByte c.tables (subByte c.tables d) = d ∧ subByte c.tables (isubByte c.tables d) = d

/-- R68. -/
def Obligations.SubstitutionIsTwoIndependentBijectiveLanes : Prop :=
  ∀ c : Configuration,
    Function.Bijective (subByte c.tables) ∧ Function.Bijective (isubByte c.tables) ∧
    (∀ d, hi (subByte c.tables d) = c.tables.subNibble (hi d) ∧ lo (subByte c.tables d) = c.tables.subNibble (lo d)) ∧
    (∀ d, hi (isubByte c.tables d) = c.tables.invSubNibble (hi d) ∧
      lo (isubByte c.tables d) = c.tables.invSubNibble (lo d)) ∧
    (∀ d e, lo d = lo e → hi d ≠ hi e →
      (lo (subByte c.tables d) = lo (subByte c.tables e) ∧ hi (subByte c.tables d) ≠ hi (subByte c.tables e)) ∧
      (lo (isubByte c.tables d) = lo (isubByte c.tables e) ∧ hi (isubByte c.tables d) ≠ hi (isubByte c.tables e)))

/-- R70: the two parts of a substituted byte do not overlap, so the OR is the sum and the XOR. -/
def Obligations.SubstitutedNibblesNeverOverlap : Prop :=
  ∀ (t : Tables) (d : Byte),
    let high := (t.subNibble (hi d)).setWidth 8 <<< 4
    let low := (t.subNibble (lo d)).setWidth 8
    high &&& 0x0F = 0 ∧ low &&& 0xF0 = 0 ∧ high &&& low = 0 ∧
    subByte t d = high ||| low ∧ subByte t d = high + low ∧ subByte t d = high ^^^ low ∧
    high.toNat + low.toNat < 256

/-- R69, R78: each operation depends on the tables only through the one it names. -/
def Obligations.OperationsReadOnlyTheirOwnTable : Prop :=
  ∀ (t u : Tables) (d : Byte),
    (t.sbox = u.sbox → subByte t d = subByte u d) ∧ (t.rsbox = u.rsbox → isubByte t d = isubByte u d) ∧
    (t.pbox = u.pbox → permByte t d = permByte u d) ∧ (t.rpbox = u.rpbox → ipermByte t d = ipermByte u d)

/-! ## The permutation family -/

/-- R72. -/
def Obligations.PermBitByBit : Prop :=
  ∀ (c : Configuration) (d : Byte),
    (∀ j, bitSet (permByte c.tables d) (c.tables.permPos j) = bitSet d j) ∧
    (∀ k, bitSet (permByte c.tables d) k = bitSet d (c.tables.invPermPos k))

/-- R74. -/
def Obligations.IpermBitByBit : Prop :=
  ∀ (c : Configuration) (d : Byte),
    (∀ j, bitSet (ipermByte c.tables d) (c.tables.invPermPos j) = bitSet d j) ∧
    (∀ k, bitSet (ipermByte c.tables d) k = bitSet d (c.tables.permPos k))

/-- R75. -/
def Obligations.PermAndIpermUndoEachOther : Prop :=
  ∀ (c : Configuration) (d : Byte),
    ipermByte c.tables (permByte c.tables d) = d ∧ permByte c.tables (ipermByte c.tables d) = d

/-- R76, for PERM with PBOX and for IPERM with RPBOX. -/
def Obligations.PermutationMovesBitsUnchanged : Prop :=
  ∀ c : Configuration,
    ((∀ d, popcount (permByte c.tables d) = popcount d) ∧
      permByte c.tables 0x00 = 0x00 ∧ permByte c.tables 0xFF = 0xFF ∧
      (∀ j, permByte c.tables (oneBit j) = oneBit (c.tables.permPos j)) ∧
      (∀ a b, permByte c.tables (a ^^^ b) = permByte c.tables a ^^^ permByte c.tables b ∧
        permByte c.tables (a &&& b) = permByte c.tables a &&& permByte c.tables b ∧
        permByte c.tables (a ||| b) = permByte c.tables a ||| permByte c.tables b) ∧
      (∀ a, permByte c.tables (~~~a &&& 0xFF) = ~~~(permByte c.tables a) &&& 0xFF)) ∧
    ((∀ d, popcount (ipermByte c.tables d) = popcount d) ∧
      ipermByte c.tables 0x00 = 0x00 ∧ ipermByte c.tables 0xFF = 0xFF ∧
      (∀ j, ipermByte c.tables (oneBit j) = oneBit (c.tables.invPermPos j)) ∧
      (∀ a b, ipermByte c.tables (a ^^^ b) = ipermByte c.tables a ^^^ ipermByte c.tables b ∧
        ipermByte c.tables (a &&& b) = ipermByte c.tables a &&& ipermByte c.tables b ∧
        ipermByte c.tables (a ||| b) = ipermByte c.tables a ||| ipermByte c.tables b) ∧
      (∀ a, ipermByte c.tables (~~~a &&& 0xFF) = ~~~(ipermByte c.tables a) &&& 0xFF))

/-- R77: distinct turns of the loop write distinct bits, every bit is written just once, any order of the turns gives
the same byte, and the datapath is eight wires from `d[j]` to `out[PBOX[j]]`; for PERM and for IPERM. -/
def Obligations.EachTurnWritesItsOwnBit : Prop :=
  ∀ c : Configuration,
    ((∀ j j', j ≠ j' → c.tables.permPos j ≠ c.tables.permPos j') ∧
      (∀ k, bitPositions.countP (fun j => c.tables.permPos j == k) = 1) ∧
      (∀ (d : Byte) (order : List BitPos), order.Perm bitPositions →
        order.foldl (fun out j => out ||| (bitAt d j <<< (c.tables.permPos j).toNat)) 0 = permByte c.tables d) ∧
      (∀ d j, bitSet (permByte c.tables d) (c.tables.permPos j) = bitSet d j)) ∧
    ((∀ j j', j ≠ j' → c.tables.invPermPos j ≠ c.tables.invPermPos j') ∧
      (∀ k, bitPositions.countP (fun j => c.tables.invPermPos j == k) = 1) ∧
      (∀ (d : Byte) (order : List BitPos), order.Perm bitPositions →
        order.foldl (fun out j => out ||| (bitAt d j <<< (c.tables.invPermPos j).toNat)) 0 = ipermByte c.tables d) ∧
      (∀ d j, bitSet (ipermByte c.tables d) (c.tables.invPermPos j) = bitSet d j))

/-! ## Encoding -/

/-- R49: the fields of a REQ word, and the word of two fields. -/
def Obligations.RequestWordFields : Prop :=
  (∀ (op : OpSelect) (d : Byte),
    selectField (reqWordOf op d) = op ∧ dataField (reqWordOf op d) = d ∧
    (reqWordOf op d).toNat = op.toNat * 256 + d.toNat) ∧
  (∀ w : ReqWord, (selectField w).toNat = w.toNat / 256 ∧ (dataField w).toNat = w.toNat % 256 ∧ w.toNat ≤ 0x3FF) ∧
  (∀ i : Instr, encode i = reqWordOf i.op.select i.data)

/-- R50: the four values of `op`, and what its two bits select. -/
def Obligations.OperationSelectTable : Prop :=
  Op.ofSelect 0b00 = .sub ∧ Op.ofSelect 0b01 = .isub ∧ Op.ofSelect 0b10 = .perm ∧ Op.ofSelect 0b11 = .iperm ∧
  (∀ op : OpSelect, op.getLsbD 1 = false ↔ Op.ofSelect op = .sub ∨ Op.ofSelect op = .isub) ∧
  (∀ op : OpSelect, op.getLsbD 0 = false ↔ Op.ofSelect op = .sub ∨ Op.ofSelect op = .perm)

/-- The headline of the encoding: both round trips, the printed form among them, and the decoder on the numbers of the
opcode table. No bit of a word is dropped and no two requests share a word. That a number of 10 or 16 bits is read as a
REQ word, and that one of 1024 or more is refused, is the model's choice (log entry 15), no rule of the spec. -/
def Obligations.DecodeAndEncodeAgree : Prop :=
  (∀ i : Instr, i.wf = true → decode (encode i) = i) ∧
  (∀ w : ReqWord, encode (decode w) = w) ∧
  (∀ i : Instr, decodeTableWord 10 (encode i).toNat = some i ∧ decodeTableWord 16 (encode i).toNat = some i) ∧
  (∀ n : Nat, decodeNat n = .error .widerThanReqWord ↔ 1024 ≤ n) ∧
  (∀ i : Instr, assemble (disassemble (encode i)) = .ok i)

/-- R53: each of the 1024 words selects exactly one operation, by `op`, with operand `d`, and none traps. -/
def Obligations.EveryWordDecodesAndNoneTraps : Prop :=
  ∀ w : ReqWord,
    (∃ op : Op, (∀ op', (decode w).op = op' ↔ op' = op) ∧ op.select = selectField w) ∧
    (decode w).data = dataField w ∧ decodeNat w.toNat = .ok (decode w) ∧
    ∀ s : State, ∃ t, exec (decode w) s = .next t

/-- Words written out bit by bit from R49 and R50 decode to what they stand for. -/
def Obligations.SampleWordsDecode : Prop :=
  decode 0b0000000000 = .sub 0x00 ∧ decode 0b0110011001 = .isub 0x99 ∧ decode 0b1011111111 = .perm 0xFF ∧
  decode 0b1111111111 = .iperm 0xFF ∧ decode 0b0100101010 = .isub 0x2A ∧ decode 0b1010000000 = .perm 0x80 ∧
  decode 0b0000000101 = .sub 0x05 ∧ decode 0b1100001100 = .iperm 0x0C

/-- R58: every word has a printing, of its mnemonic by R50 and its data byte in two lower-case hex digits, and assembling
the printing gives the word back. -/
def Obligations.PrintingThenAssemblingGivesTheWordBack : Prop :=
  (Op.mnemonic .sub = "SUB".toList ∧ Op.mnemonic .isub = "ISUB".toList ∧
    Op.mnemonic .perm = "PERM".toList ∧ Op.mnemonic .iperm = "IPERM".toList) ∧
  (∀ x : Nibble, "0123456789abcdef".toList[x.toNat]? = some (lowerHex x)) ∧
  ∀ w : ReqWord,
    disassemble w = Op.mnemonic (Op.ofSelect (selectField w)) ++
      [' ', '0', 'x', lowerHex (hi (dataField w)), lowerHex (lo (dataField w))] ∧
    ∃ i, assemble (disassemble w) = .ok i ∧ encode i = w

/-- R57: the assembler's refusals, each by its name: of every line by its tokens, of an instruction and of a
pseudo-instruction, and on the lines of 95_test_vectors.md L2.1. What counts as a round count, key or mode operand (a word with `=`), the order of the refusals and the spelling of
a negative number are the model's choice (log entry 14). -/
def Obligations.AssemblerRefusesByName : Prop :=
  (∀ (line m : List Char) (ts : List Token), tokens line = .word m :: ts →
    (parseOp m = none → assemble line = .error .unknownMnemonic) ∧
    ((parseOp m).isSome = true →
      (ts = [] → assemble line = .error .missingOperand) ∧
      (ts.any Token.isSetting = true → assemble line = .error .roundKeyOrModeOperand) ∧
      (∀ (operand : Operand) (rest : List Token), ts.any Token.isSetting = false →
        firstOperand ts = .ok (operand, rest) → rest.any Token.beginsOperand = true →
        assemble line = .error .secondOperand) ∧
      (∀ (cs : List Char) (n : Nat), ts = [.word cs] → ts.any Token.isSetting = false →
        (parseMagnitude cs = some n → 256 ≤ n → assemble line = .error .byteOutOfRange) ∧
        (∀ ds, cs = '-' :: ds → parseMagnitude ds = some n → 1 ≤ n → assemble line = .error .byteOutOfRange)))) ∧
  (∀ (line m : List Char) (ts : List Token), tokens line = .word m :: ts →
    (parsePseudoMnemonic m = none → assemblePseudo line = .error .unknownMnemonic) ∧
    ((parsePseudoMnemonic m).isSome = true →
      (ts = [] → assemblePseudo line = .error .missingOperand) ∧
      (ts.any Token.isSetting = true → assemblePseudo line = .error .roundKeyOrModeOperand) ∧
      (∀ (operand : Operand) (rest : List Token), ts.any Token.isSetting = false →
        firstOperand ts = .ok (operand, rest) → rest.any Token.beginsOperand = true →
        assemblePseudo line = .error .secondOperand))) ∧
  assemble "SUB 256".toList = .error .byteOutOfRange ∧
  assemble "XOR 0x01".toList = .error .unknownMnemonic ∧
  assemble "SUB".toList = .error .missingOperand ∧
  assemble "SUB 0x01, 0x02".toList = .error .secondOperand ∧
  assemble "SUB 0x01 rounds=2".toList = .error .roundKeyOrModeOperand

/-! ## The tables and the build -/

/-- R21: WF(cfg) is the four conditions of R17 to R20. -/
def Obligations.WellFormedMeansInverseBijections : Prop :=
  ∀ t : Tables, t.wf = true ↔
    ((∀ v, ∃! x, t.subNibble x = v) ∧
     (∀ x, t.invSubNibble (t.subNibble x) = x ∧ t.subNibble (t.invSubNibble x) = x) ∧
     (∀ d, ∃! j, t.permPos j = d) ∧
     (∀ j, t.invPermPos (t.permPos j) = j ∧ t.permPos (t.invPermPos j) = j))

/-- R27: a bijective SBOX has exactly one inverse table, the one that finds the index of a value; PBOX likewise. -/
def Obligations.ForwardTablesFixTheInverseTables : Prop :=
  ∀ t : Tables,
    (t.sboxBijective = true →
      ∃ r, Tables.rsboxInverse { t with rsbox := r } = true ∧
        (∀ r', Tables.rsboxInverse { t with rsbox := r' } = true → r' = r) ∧
        ∀ v x, t.subNibble x = v → Tables.invSubNibble { t with rsbox := r } v = x) ∧
    (t.pboxBijective = true →
      ∃ r, Tables.rpboxInverse { t with rpbox := r } = true ∧
        (∀ r', Tables.rpboxInverse { t with rpbox := r' } = true → r' = r) ∧
        ∀ d j, t.permPos j = d → Tables.invPermPos { t with rpbox := r } d = j)

/-- R89, R91, R93: no engine is built from ill-formed tables; the refusal lists every failed condition by its code, in
increasing order; a failed bijection fails the inverse with it. From well-formed tables the engine of R107 is built. -/
def Obligations.BootRefusesIllFormedTables : Prop :=
  ∀ (t : Tables) (latency : Nat),
    (∀ h : t.wf = true, boot t latency = .next (State.afterReset ⟨t, h⟩ latency)) ∧
    (t.wf = false → boot t latency = .refused (.configuration t.failures)) ∧
    (t.failures = [] ↔ t.wf = true) ∧
    (1 ∈ t.failures.map RefusalCode.code ↔ t.sboxBijective = false) ∧
    (2 ∈ t.failures.map RefusalCode.code ↔ t.rsboxInverse = false) ∧
    (3 ∈ t.failures.map RefusalCode.code ↔ t.pboxBijective = false) ∧
    (4 ∈ t.failures.map RefusalCode.code ↔ t.rpboxInverse = false) ∧
    (t.failures.map RefusalCode.code).Pairwise (· < ·) ∧
    (∀ c ∈ t.failures.map RefusalCode.code, 1 ≤ c ∧ c ≤ 4) ∧
    (t.sboxBijective = false → t.rsboxInverse = false) ∧ (t.pboxBijective = false → t.rpboxInverse = false)

/-- No table is shut out by the form of the free constants (log entry 1): every well-formed configuration is that of a
pair of permutations, and one that has SBOX[0] = 0x9 is its own correction; and the installed one has it (R17). -/
def Obligations.EveryWellFormedConfigurationIsAdmitted : Prop :=
  (∀ c : Configuration, ∃ (σ : Equiv.Perm Nibble) (π : Equiv.Perm BitPos),
    c.tables = Tables.ofPerms σ π ∧ (c.isSource = true → σ.trans (Equiv.swap (σ 0) 9) = σ)) ∧
  (∀ (σ : Equiv.Perm Nibble) (π : Equiv.Perm BitPos), (Tables.ofPerms σ π).wf = true) ∧
  State.reset.cfg.isSource = true

/-- R26: no step and no instruction writes a table, and SUB reads SBOX[x] out in its low nibble. -/
def Obligations.TablesAreNeverWritten : Prop :=
  (∀ s t : State, step s = .next t → t.cfg = s.cfg ∧ t.latency = s.latency) ∧
  (∀ (i : Instr) (s t : State), exec i s = .next t → t.cfg = s.cfg ∧ t.latency = s.latency) ∧
  (∀ (t : Tables) (x : Nibble), lo (subByte t (x.setWidth 8)) = t.subNibble x)

/-! ## Reset and the ports -/

/-- The machine right after reset: the values of R32 and R107, the discipline and the pairing (vacuously nothing has
happened), and SBOX[0] = 0x9. That the script is empty and the cycle count 0 are the model's own (log entries 4, 8). -/
def Obligations.ResetMeetsTheInvariants : Prop :=
  State.reset.inFlight = [] ∧ State.reset.accepted = [] ∧ State.reset.received = [] ∧
  Paired State.reset ∧ Disciplined State.reset ∧ SourceTables State.reset

/-- R107: the outputs in the first cycle after reset, of an engine just built and of one just reset, in both forms; a read
of `rsp_data` in it faults. -/
def Obligations.FirstCycleAfterReset : Prop :=
  ∀ s : State,
    ((∃ cfg latency, s = State.afterReset cfg latency) ∨
      ∃ (r : State) (q : Pins), r.nextEvent = .clock q ∧ q.rst = true ∧ step r = .next s) →
    s.inFlight = [] ∧
    ∀ p : Pins, p.rst = false →
      (1 ≤ s.latency → rspValidOut s p = false ∧ reqReadyOut s p = true) ∧
      (s.latency = 0 → rspValidOut s p = p.reqValid ∧ reqReadyOut s p = p.rspReady) ∧
      (p.readsRspData = true → clockEdge p s = .fault .rspDataHoldsNoValue)

/-- R105: in a cycle with `rst = 1` both outputs are 0 and nothing transfers. -/
def Obligations.OutputsLowInReset : Prop :=
  ∀ (s : State) (p : Pins), p.rst = true →
    reqReadyOut s p = false ∧ rspValidOut s p = false ∧ reqTransfers s p = false ∧ rspTransfers s p = false

/-- Reset: a cycle with `rst = 1` and no read completes; every request in flight is dropped, the counts start again,
what had transferred stays with the host, the tables stay (R106, R108). -/
def Obligations.ResetDropsRequestsAndKeepsTables : Prop :=
  ∀ (s : State) (p : Pins), s.nextEvent = .clock p → p.rst = true → p.readsRspData = false →
    ∃ t, step s = .next t ∧ t.inFlight = [] ∧ t.accepted = [] ∧ t.received = [] ∧ t.kept = s.kept ++ s.received ∧
      t.cfg = s.cfg ∧ t.latency = s.latency ∧ t.samples = s.samples ∧ t.script = s.script.tail

/-- Loss of power or clock: requests in flight are lost as at reset, the tables survive (R103; log entry 12). -/
def Obligations.PowerLossDropsRequestsAndKeepsTables : Prop :=
  ∀ s : State, s.nextEvent = .powerLoss →
    ∃ t, step s = .next t ∧ t.inFlight = [] ∧ t.accepted = [] ∧ t.received = [] ∧ t.kept = s.kept ++ s.received ∧
      t.cfg = s.cfg ∧ t.latency = s.latency

/-- R28: a request transfers exactly where `req_valid` and `req_ready` are 1 and `rst` is 0, and a response exactly where
`rsp_valid` and `rsp_ready` are 1 and `rst` is 0; what transfers is the word on the ports, and the value of `rsp_data`. -/
def Obligations.TransfersFollowTheHandshake : Prop :=
  ∀ (s t : State) (p : Pins), Disciplined s → s.nextEvent = .clock p → p.rst = false → step s = .next t →
    t.accepted = (if p.reqValid && reqReadyOut s p then s.accepted ++ [decode (reqWordOf p.reqOp p.reqData)]
      else s.accepted) ∧
    (rspValidOut s p = true → (rspData s p).isSome = true) ∧
    t.received = (if rspValidOut s p && p.rspReady then s.received ++ (rspData s p).toList else s.received)

/-- The combinational form, LATENCY = 0 (R115): the outputs follow the inputs, and a request and its response transfer on
the same edge. `rsp_data` is stated where `req_valid = 1`; where it is 0, R31 says that there is no value. -/
def Obligations.CombinationalForm : Prop :=
  ∀ (s : State) (p : Pins), s.latency = 0 → p.rst = false →
    rspValidOut s p = p.reqValid ∧ reqReadyOut s p = p.rspReady ∧
    (p.reqValid = true → rspData s p = some (respond s.cfg (decode (reqWordOf p.reqOp p.reqData)))) ∧
    (Disciplined s → s.nextEvent = .clock p → p.readsRspData = false → p.reqValid = true → p.rspReady = true →
      ∃ t, step s = .next t ∧ t.inFlight = [] ∧
        t.accepted = s.accepted ++ [decode (reqWordOf p.reqOp p.reqData)] ∧
        t.received = s.received ++ [respond s.cfg (decode (reqWordOf p.reqOp p.reqData))])

/-- Every LATENCY gives the same sequence of response values for the same sequence of requests (R115, R114): two runs, of
any two engines with the same tables, whatever their LATENCY, their timing and their hosts' scripts, that end with the
same requests accepted have received, one a beginning of what the other has, and the same where nothing is in flight. -/
def Obligations.ResponsesDoNotDependOnLatency : Prop :=
  ∀ (n m : Nat) (s s' t t' : State), Paired s → Paired s' → s.cfg = s'.cfg →
    Sys2Proof.core.run n s = .next t → Sys2Proof.core.run m s' = .next t' → t.accepted = t'.accepted →
    (t.received <+: t'.received ∨ t'.received <+: t.received) ∧
    (t.inFlight = [] → t'.inFlight = [] → t.received = t'.received)

/-- R31: a read of `rsp_data` faults where `rsp_valid` is 0, and before the first response since reset has transferred;
elsewhere it gives the value on the port. No step faults for another reason (R90), and none is refused. -/
def Obligations.OnlyReadsOfNoValueFault : Prop :=
  (∀ (s : State) (p : Pins), s.nextEvent = .clock p → p.readsRspData = true →
    (rspValidOut s p = false → step s = .fault .rspDataHoldsNoValue) ∧
    (s.received = [] → step s = .fault .rspDataHoldsNoValue) ∧
    (Disciplined s → rspValidOut s p = true → s.received ≠ [] →
      ∃ t v, rspData s p = some v ∧ step s = .next t ∧ t.samples = s.samples ++ [v])) ∧
  (∀ (s : State) (f : Fault), step s = .fault f →
    ∃ p, s.nextEvent = .clock p ∧ p.readsRspData = true ∧ (rspData s p = none ∨ s.received = [])) ∧
  (∀ (s : State) (r : Refusal), step s ≠ .refused r)

/-- R33: with nothing in flight and no request offered, a cycle starts no operation and produces no response. That
`req_ready` of an idle engine stays 1, in the state and so in this statement, is the model's choice (log entry 6). -/
def Obligations.IdleEngineDoesNothing : Prop :=
  ∀ (s : State) (p : Pins), Disciplined s → s.inFlight = [] → s.nextEvent = .clock p →
    p.rst = false → p.reqValid = false → p.readsRspData = false →
    step s = .next { s with script := s.script.tail, cycle := s.cycle + 1 }

/-! ## The step and the whole machine -/

/-- A step runs the decoded instruction: where the word on the ports transfers and decodes to `i`, the step is exec of `i`
with the rest of the clock edge around it; where none transfers it is the edge alone; and the word that `withFetchWord`
places is run by the very next step. How withFetchWord places a word, and that it makes the engine willing to accept it,
is the model's choice (log entry 15). -/
def Obligations.StepRunsTheDecodedInstruction : Prop :=
  (∀ (s : State) (p : Pins) (i : Instr), s.nextEvent = .clock p → p.rst = false → p.readsSafely s →
    p.reqValid = true → reqReadyOut s p = true → decode (reqWordOf p.reqOp p.reqData) = i → i.wf = true →
    step s = afterExec s.popEvent p (exec i s.popEvent)) ∧
  (∀ (s : State) (p : Pins), s.nextEvent = .clock p → p.rst = false → p.readsSafely s →
    (p.reqValid = false ∨ reqReadyOut s p = false) → step s = .next (finishEdge s.popEvent p s.popEvent)) ∧
  (∀ (s : State) (nbits w : Nat) (i : Instr), decodeTableWord nbits w = some i →
    step (s.withFetchWord nbits w) =
      afterExec { s with reqReady := true } (Pins.request (encode i)) (exec i { s with reqReady := true }))

/-- The pairing of responses with requests is kept by every step from every state that has it (R41, R44). -/
def Obligations.EveryStepKeepsThePairing : Prop :=
  ∀ s t : State, Paired s → step s = .next t → Paired t

/-- The discipline of the interface state is kept by every step from every state that has it: the queue stays within
LATENCY, and the outputs stay true to it. It rests on the model's choices of log entries 5, 6 and 7. -/
def Obligations.EveryStepKeepsTheDiscipline : Prop :=
  ∀ s t : State, Disciplined s → step s = .next t → Disciplined t

/-- R44: after any number of steps, under any script of the host, the k-th response since reset is F of the k-th request
accepted since reset. -/
def Obligations.KthResponseAnswersKthRequest : Prop :=
  ∀ (n : Nat) (s t : State), Paired s → Sys2Proof.core.run n s = .next t →
    t.cfg = s.cfg ∧ t.received.length ≤ t.accepted.length ∧
    ∀ (k : Nat) (b : Byte), t.received[k]? = some b → ∃ i, t.accepted[k]? = some i ∧ b = respond s.cfg i

/-- R41: but for a reset or a loss of power, no step drops, duplicates or reorders: requests and responses only grow at
their ends, what is in flight is the difference, and the responses received with those in flight behind them, oldest
first, only grow at their end: the oldest leaves first. -/
def Obligations.NothingIsLostWithoutReset : Prop :=
  ∀ (s t : State) (p : Pins), Paired s → s.nextEvent = .clock p → p.rst = false → step s = .next t →
    s.accepted <+: t.accepted ∧ s.received <+: t.received ∧ t.kept = s.kept ∧
    s.received ++ s.inFlight.map InFlight.response <+: t.received ++ t.inFlight.map InFlight.response ∧
    t.received.length + t.inFlight.length = t.accepted.length

/-- R104, first half: while the host takes responses and `rst` stays 0, everything in flight is answered within LATENCY
cycles, whatever the free choices of timing are, and whatever else the host requests meanwhile. It rests on the model's
choices of when a response is offered (log entry 5) and how many requests are in flight (log entry 7). -/
def Obligations.ResponsesComeWithinLatency : Prop :=
  ∀ (s : State) (ps : List Pins) (rest : List HostEvent), Disciplined s →
    s.script = ps.map HostEvent.clock ++ rest → ps.length = s.latency → (∀ p ∈ ps, p.takes) →
    ∃ t, Sys2Proof.core.run s.latency s = .next t ∧
      s.received ++ s.inFlight.map InFlight.response <+: t.received

/-- R104, second half: while the host takes responses, offers a request in every cycle and `rst` stays 0, the engine keeps
accepting. R104 gives no bound: that it accepts at least one request in any LATENCY + 1 cycles is the model's, by the
choices of log entries 5, 6 and 7. -/
def Obligations.EngineKeepsAcceptingRequests : Prop :=
  ∀ (s : State) (ps : List Pins) (rest : List HostEvent), Disciplined s →
    s.script = ps.map HostEvent.clock ++ rest → ps.length = s.latency + 1 →
    (∀ p ∈ ps, p.takes ∧ p.reqValid = true) →
    ∃ t, Sys2Proof.core.run (s.latency + 1) s = .next t ∧ s.accepted.length < t.accepted.length

/-! ## Sequences and pipelines -/

/-- R80, R81: the empty sequence, which is no request, and the length of every sequence. -/
def Obligations.SequencesKeepTheirLength : Prop :=
  ∀ (c : Configuration) (op : Op),
    opSeq c op [] = [] ∧ requests op [] = [] ∧
    ∀ bytes, (opSeq c op bytes).length = bytes.length ∧ (requests op bytes).length = bytes.length

/-- R82. -/
def Obligations.SequenceTransformsUndoInPairs : Prop :=
  ∀ (c : Configuration) (bytes : List Byte),
    opSeq c .isub (opSeq c .sub bytes) = bytes ∧ opSeq c .sub (opSeq c .isub bytes) = bytes ∧
    opSeq c .iperm (opSeq c .perm bytes) = bytes ∧ opSeq c .perm (opSeq c .iperm bytes) = bytes

/-- R84, with R83 element by element: the pipelines undo each other, and they are what the pseudo-instructions FWD and REV
come to, with the requests R60 expands each into. -/
def Obligations.PipelinesUndoEachOther : Prop :=
  ∀ (c : Configuration) (bytes : List Byte),
    rev c bytes = opSeq c .isub (opSeq c .iperm bytes) ∧ rev c (fwd c bytes) = bytes ∧ fwd c (rev c bytes) = bytes ∧
    (∀ (k : Nat) (b : Byte), bytes[k]? = some b → (fwd c bytes)[k]? = some (permByte c.tables (subByte c.tables b))) ∧
    (Pseudo.fwd bytes).result c = fwd c bytes ∧ (Pseudo.rev bytes).result c = rev c bytes ∧
    (Pseudo.fwd bytes).requests c = requests .sub bytes ++ requests .perm (opSeq c .sub bytes) ∧
    (Pseudo.rev bytes).requests c = requests .iperm bytes ++ requests .isub (opSeq c .iperm bytes)

/-- R85: with an identity PBOX the wrong order recovers every input, so ORDER_SENSITIVE is no law; and it is no
contradiction: some configuration with SBOX[0] = 0x9 has it and some has it not. -/
def Obligations.WrongOrderIsNotALawEitherWay : Prop :=
  (∀ (c : Configuration) (bytes : List Byte), (∀ j, c.tables.permPos j = j) → wrongRev c (fwd c bytes) = bytes) ∧
  (∃ c : Configuration, c.isSource = true ∧ orderSensitive c = true) ∧
  (∃ c : Configuration, c.isSource = true ∧ orderSensitive c = false)

/-- R79 on the engine, in the combinational form: the n requests of a sequence, offered back to back to an engine whose
responses the host takes, give the n responses of the sequence transform, in order, in n steps. -/
def Obligations.SequenceOfRequestsGivesTheSequenceTransform : Prop :=
  ∀ (s : State) (op : Op) (bytes : List Byte) (rest : List HostEvent), s.latency = 0 → s.inFlight = [] →
    s.script = backToBack (requests op bytes) ++ rest →
    ∃ t, Sys2Proof.core.run bytes.length s = .next t ∧ t.received = s.received ++ opSeq s.cfg op bytes ∧
      t.accepted = s.accepted ++ requests op bytes ∧ t.inFlight = [] ∧ t.script = rest

/-- R79 on the engine, for every LATENCY and every host that takes responses: once the requests of a sequence have been
accepted by an engine that was idle, in whatever cycles `ps` the host offered them, LATENCY more cycles without a request
give the sequence transform as the next responses, in order, with nothing left in flight. That LATENCY cycles are enough
rests on the model's choices of log entries 5 and 7. -/
def Obligations.AcceptedSequenceIsAnsweredAtEveryLatency : Prop :=
  ∀ (s : State) (op : Op) (bytes : List Byte) (ps qs : List Pins) (rest : List HostEvent), Disciplined s →
    s.inFlight = [] → s.script = ps.map HostEvent.clock ++ (qs.map HostEvent.clock ++ rest) →
    (∀ p ∈ ps, p.takes) → (∀ q ∈ qs, q.takes ∧ q.reqValid = false) → qs.length = s.latency →
    ∃ t, Sys2Proof.core.run ps.length s = .next t ∧
      (t.accepted = s.accepted ++ requests op bytes →
        ∃ u, Sys2Proof.core.run (ps.length + qs.length) s = .next u ∧
          u.received = s.received ++ opSeq s.cfg op bytes ∧ u.accepted = t.accepted ∧ u.inFlight = [] ∧ u.script = rest)

/-- R79 on the engine, for every LATENCY, with a host that waits LATENCY cycles after each request: from an idle engine
every request of the sequence is accepted in the first cycle it is offered, and the responses are the sequence transform,
in order. It rests on the model's choices of log entries 5, 6 and 7. -/
def Obligations.PacedSequenceGivesTheSequenceTransform : Prop :=
  ∀ (s : State) (op : Op) (bytes : List Byte) (rest : List HostEvent), Disciplined s → s.inFlight = [] →
    s.script = paced s.latency (requests op bytes) ++ rest →
    ∃ t, Sys2Proof.core.run (bytes.length * (s.latency + 1)) s = .next t ∧
      t.received = s.received ++ opSeq s.cfg op bytes ∧ t.accepted = s.accepted ++ requests op bytes ∧
      t.inFlight = [] ∧ t.script = rest
end

