-- ==== Sys2Proof/Laws/Assembler.lean ====
section
/-! SUPPORT. What the shared operations of the assembler can do, once each, for the proofs about its lines. -/

namespace Sys2Proof.Machine

/-- A line has a sole operand exactly where no token is a round count, key or mode operand and nothing follows the first
operand. -/
theorem soleOperand_eq_ok {ts : List Token} {operand : Operand} :
    soleOperand ts = .ok operand ↔ ts.any Token.isSetting = false ∧ firstOperand ts = .ok (operand, []) := by
  unfold soleOperand
  split
  · simp [*]
  · split <;> simp_all

/-- A round count, key or mode operand is refused whatever else stands on the line. -/
theorem soleOperand_of_setting {ts : List Token} (h : ts.any Token.isSetting = true) :
    soleOperand ts = .error .roundKeyOrModeOperand := by
  rw [soleOperand, if_pos h]

/-- A token behind the first operand that begins an operand is a second one, whatever the first is. -/
theorem soleOperand_of_second {ts rest : List Token} {operand : Operand} (hs : ts.any Token.isSetting = false)
    (hf : firstOperand ts = .ok (operand, rest)) (hr : rest.any Token.beginsOperand = true) :
    soleOperand ts = .error .secondOperand := by
  cases rest with
  | nil => simp at hr
  | cons t ts => simp only [soleOperand, hs, hf, hr, Bool.false_eq_true, if_false, if_true]

/-- What a line of a known mnemonic gives is what its operand gives. -/
theorem assemble_of_mnemonic {line m : List Char} {ts : List Token} {op : Op} (ht : tokens line = .word m :: ts)
    (hm : parseOp m = some op) : assemble line = (parseOperand ts).map (Instr.ofOp op) := by
  simp only [assemble, ht, hm]
  cases parseOperand ts <;> rfl

/-- The same of a line with a pseudo-instruction. -/
theorem assemblePseudo_of_mnemonic {line m : List Char} {ts : List Token} {make : List Byte → Pseudo}
    (ht : tokens line = .word m :: ts) (hm : parsePseudoMnemonic m = some make) :
    assemblePseudo line = (parseSeqOperand ts).map make := by
  simp only [assemblePseudo, ht, hm]
  cases parseSeqOperand ts <;> rfl

end Sys2Proof.Machine
end

