-- ==== Sys2Proof/Laws/Operands.lean ====
section
/-! SUPPORT. A byte is its two nibbles, and it is its eight bits (spec/00_scope.md R10, R11). -/

namespace Sys2Proof

@[simp] theorem hi_joinNibbles (h l : Nibble) : hi (joinNibbles h l) = h := by
  revert h l; decide

@[simp] theorem lo_joinNibbles (h l : Nibble) : lo (joinNibbles h l) = l := by
  revert h l; decide

@[simp] theorem joinNibbles_hi_lo (b : Byte) : joinNibbles (hi b) (lo b) = b := by
  simp only [joinNibbles, hi, lo]
  ext i hi
  simp only [BitVec.getElem_or, BitVec.getElem_shiftLeft, BitVec.getElem_setWidth, BitVec.getLsbD_setWidth,
    BitVec.getLsbD_and, BitVec.getLsbD_ushiftRight]
  interval_cases i <;> simp

/-- Two bytes with the same bits are the same. -/
theorem byte_ext {a b : Byte} (h : ∀ k, bitSet a k = bitSet b k) : a = b := by
  apply BitVec.eq_of_getLsbD_eq
  intro i hi
  simpa [bitSet, Nat.mod_eq_of_lt hi] using h (BitVec.ofNat 3 i)

@[simp] theorem bitSet_zero (k : BitPos) : bitSet 0#8 k = false := by simp [bitSet]

@[simp] theorem bitSet_or (a b : Byte) (k : BitPos) : bitSet (a ||| b) k = (bitSet a k || bitSet b k) := by
  simp [bitSet]

@[simp] theorem bitSet_and (a b : Byte) (k : BitPos) : bitSet (a &&& b) k = (bitSet a k && bitSet b k) := by
  simp [bitSet]

@[simp] theorem bitSet_xor (a b : Byte) (k : BitPos) : bitSet (a ^^^ b) k = (bitSet a k ^^ bitSet b k) := by
  simp [bitSet]

@[simp] theorem bitSet_not (a : Byte) (k : BitPos) : bitSet (~~~a) k = !bitSet a k := by
  have := k.isLt
  simp [bitSet, this]

@[simp] theorem bitSet_oneBit (j k : BitPos) : bitSet (oneBit j) k = decide (j = k) := by
  revert j k; decide

/-- One turn of the loop of R71: bit `j` of the byte, at position `p`. -/
theorem bitSet_bitAt_shift (d : Byte) (j p k : BitPos) :
    bitSet (bitAt d j <<< p.toNat) k = (decide (p = k) && bitSet d j) := by
  have h : bitAt d j = if bitSet d j then 1#8 else 0#8 := by
    revert d; revert j; decide
  rw [h]
  cases bitSet d j
  · simp [bitSet]
  · simp only [if_true, Bool.and_true]
    exact bitSet_oneBit p k

end Sys2Proof
end

