-- ==== Sys2Proof/Laws/Response.lean ====
section
/-! SUPPORT. What the byte operations do to nibbles and bits, and what executing a request can do: one lemma per shared
operation (spec/30_encoding.md R54, spec/40_substitution.md, spec/41_permutation.md). -/

namespace Sys2Proof.Machine

@[simp] theorem hi_subByte (t : Tables) (d : Byte) : hi (subByte t d) = t.subNibble (hi d) := by simp [subByte]

@[simp] theorem lo_subByte (t : Tables) (d : Byte) : lo (subByte t d) = t.subNibble (lo d) := by simp [subByte]

@[simp] theorem hi_isubByte (t : Tables) (d : Byte) : hi (isubByte t d) = t.invSubNibble (hi d) := by simp [isubByte]

@[simp] theorem lo_isubByte (t : Tables) (d : Byte) : lo (isubByte t d) = t.invSubNibble (lo d) := by simp [isubByte]

/-- A bit of what a stretch of the loop of R71 has gathered: a bit it started with, or one that moved there. -/
theorem bitSet_foldl_move (dest : BitPos → BitPos) (d : Byte) (js : List BitPos) (out : Byte) (k : BitPos) :
    bitSet (js.foldl (fun out j => out ||| (bitAt d j <<< (dest j).toNat)) out) k =
      (bitSet out k || js.any fun j => decide (dest j = k) && bitSet d j) := by
  induction js generalizing out with
  | nil => simp
  | cons j js ih => simp [ih, bitSet_bitAt_shift, Bool.or_assoc]

/-- A bit of the result of the loop is set just where some set bit of the byte moved there (R71, R73). -/
theorem bitSet_moveBits (dest : BitPos → BitPos) (d : Byte) (k : BitPos) :
    bitSet (moveBits dest d) k = bitPositions.any fun j => decide (dest j = k) && bitSet d j := by
  simp [moveBits, bitSet_foldl_move]

/-- Everything executing a request does: it is accepted, and F is what the engine will respond (R29, R54). -/
theorem exec_eq (i : Instr) (s : State) : exec i s = .next (s.accept i (respond s.cfg i)) := by
  cases i <;> rfl

end Sys2Proof.Machine
end

