-- ==== Sys2Proof/Laws/State.lean ====
section
/-! SUPPORT. One lemma per operation and field: what the operation leaves in the field (Sys2Proof/Machine/Ops.lean and
Clock.lean). No later proof unfolds a record update. -/

namespace Sys2Proof.Machine

@[simp] theorem State.accept_cfg (s : State) (i : Instr) (r : Byte) : (s.accept i r).cfg = s.cfg := rfl
@[simp] theorem State.accept_latency (s : State) (i : Instr) (r : Byte) : (s.accept i r).latency = s.latency := rfl
@[simp] theorem State.accept_inFlight (s : State) (i : Instr) (r : Byte) : (s.accept i r).inFlight = s.inFlight ++ [⟨i, r, 0⟩] := rfl
@[simp] theorem State.accept_rspValid (s : State) (i : Instr) (r : Byte) : (s.accept i r).rspValid = s.rspValid := rfl
@[simp] theorem State.accept_reqReady (s : State) (i : Instr) (r : Byte) : (s.accept i r).reqReady = s.reqReady := rfl
@[simp] theorem State.accept_accepted (s : State) (i : Instr) (r : Byte) : (s.accept i r).accepted = s.accepted ++ [i] := rfl
@[simp] theorem State.accept_received (s : State) (i : Instr) (r : Byte) : (s.accept i r).received = s.received := rfl
@[simp] theorem State.accept_kept (s : State) (i : Instr) (r : Byte) : (s.accept i r).kept = s.kept := rfl
@[simp] theorem State.accept_samples (s : State) (i : Instr) (r : Byte) : (s.accept i r).samples = s.samples := rfl
@[simp] theorem State.accept_script (s : State) (i : Instr) (r : Byte) : (s.accept i r).script = s.script := rfl
@[simp] theorem State.accept_cycle (s : State) (i : Instr) (r : Byte) : (s.accept i r).cycle = s.cycle := rfl

@[simp] theorem State.recordSample_cfg (s : State) (v : Option Byte) : (s.recordSample v).cfg = s.cfg := rfl
@[simp] theorem State.recordSample_latency (s : State) (v : Option Byte) : (s.recordSample v).latency = s.latency := rfl
@[simp] theorem State.recordSample_inFlight (s : State) (v : Option Byte) : (s.recordSample v).inFlight = s.inFlight := rfl
@[simp] theorem State.recordSample_rspValid (s : State) (v : Option Byte) : (s.recordSample v).rspValid = s.rspValid := rfl
@[simp] theorem State.recordSample_reqReady (s : State) (v : Option Byte) : (s.recordSample v).reqReady = s.reqReady := rfl
@[simp] theorem State.recordSample_accepted (s : State) (v : Option Byte) : (s.recordSample v).accepted = s.accepted := rfl
@[simp] theorem State.recordSample_received (s : State) (v : Option Byte) : (s.recordSample v).received = s.received := rfl
@[simp] theorem State.recordSample_kept (s : State) (v : Option Byte) : (s.recordSample v).kept = s.kept := rfl
@[simp] theorem State.recordSample_samples (s : State) (v : Option Byte) : (s.recordSample v).samples = s.samples ++ v.toList := rfl
@[simp] theorem State.recordSample_script (s : State) (v : Option Byte) : (s.recordSample v).script = s.script := rfl
@[simp] theorem State.recordSample_cycle (s : State) (v : Option Byte) : (s.recordSample v).cycle = s.cycle := rfl

@[simp] theorem State.dropRequests_cfg (s : State) : (s.dropRequests).cfg = s.cfg := rfl
@[simp] theorem State.dropRequests_latency (s : State) : (s.dropRequests).latency = s.latency := rfl
@[simp] theorem State.dropRequests_inFlight (s : State) : (s.dropRequests).inFlight = [] := rfl
@[simp] theorem State.dropRequests_rspValid (s : State) : (s.dropRequests).rspValid = false := rfl
@[simp] theorem State.dropRequests_reqReady (s : State) : (s.dropRequests).reqReady = true := rfl
@[simp] theorem State.dropRequests_accepted (s : State) : (s.dropRequests).accepted = [] := rfl
@[simp] theorem State.dropRequests_received (s : State) : (s.dropRequests).received = [] := rfl
@[simp] theorem State.dropRequests_kept (s : State) : (s.dropRequests).kept = s.kept ++ s.received := rfl
@[simp] theorem State.dropRequests_samples (s : State) : (s.dropRequests).samples = s.samples := rfl
@[simp] theorem State.dropRequests_script (s : State) : (s.dropRequests).script = s.script := rfl
@[simp] theorem State.dropRequests_cycle (s : State) : (s.dropRequests).cycle = s.cycle := rfl

@[simp] theorem State.popEvent_cfg (s : State) : (s.popEvent).cfg = s.cfg := rfl
@[simp] theorem State.popEvent_latency (s : State) : (s.popEvent).latency = s.latency := rfl
@[simp] theorem State.popEvent_inFlight (s : State) : (s.popEvent).inFlight = s.inFlight := rfl
@[simp] theorem State.popEvent_rspValid (s : State) : (s.popEvent).rspValid = s.rspValid := rfl
@[simp] theorem State.popEvent_reqReady (s : State) : (s.popEvent).reqReady = s.reqReady := rfl
@[simp] theorem State.popEvent_accepted (s : State) : (s.popEvent).accepted = s.accepted := rfl
@[simp] theorem State.popEvent_received (s : State) : (s.popEvent).received = s.received := rfl
@[simp] theorem State.popEvent_kept (s : State) : (s.popEvent).kept = s.kept := rfl
@[simp] theorem State.popEvent_samples (s : State) : (s.popEvent).samples = s.samples := rfl
@[simp] theorem State.popEvent_script (s : State) : (s.popEvent).script = s.script.tail := rfl
@[simp] theorem State.popEvent_cycle (s : State) : (s.popEvent).cycle = s.cycle := rfl

@[simp] theorem State.withRequest_cfg (s : State) (w : ReqWord) : (s.withRequest w).cfg = s.cfg := rfl
@[simp] theorem State.withRequest_latency (s : State) (w : ReqWord) : (s.withRequest w).latency = s.latency := rfl
@[simp] theorem State.withRequest_inFlight (s : State) (w : ReqWord) : (s.withRequest w).inFlight = s.inFlight := rfl
@[simp] theorem State.withRequest_rspValid (s : State) (w : ReqWord) : (s.withRequest w).rspValid = s.rspValid := rfl
@[simp] theorem State.withRequest_reqReady (s : State) (w : ReqWord) : (s.withRequest w).reqReady = true := rfl
@[simp] theorem State.withRequest_accepted (s : State) (w : ReqWord) : (s.withRequest w).accepted = s.accepted := rfl
@[simp] theorem State.withRequest_received (s : State) (w : ReqWord) : (s.withRequest w).received = s.received := rfl
@[simp] theorem State.withRequest_kept (s : State) (w : ReqWord) : (s.withRequest w).kept = s.kept := rfl
@[simp] theorem State.withRequest_samples (s : State) (w : ReqWord) : (s.withRequest w).samples = s.samples := rfl
@[simp] theorem State.withRequest_script (s : State) (w : ReqWord) : (s.withRequest w).script = .clock (Pins.request w) :: s.script := rfl
@[simp] theorem State.withRequest_cycle (s : State) (w : ReqWord) : (s.withRequest w).cycle = s.cycle := rfl

@[simp] theorem State.tick_cfg (s : State) : (s.tick).cfg = s.cfg := rfl
@[simp] theorem State.tick_latency (s : State) : (s.tick).latency = s.latency := rfl
@[simp] theorem State.tick_inFlight (s : State) : (s.tick).inFlight = s.inFlight.map fun e => { e with age := e.age + 1 } := rfl
@[simp] theorem State.tick_accepted (s : State) : (s.tick).accepted = s.accepted := rfl
@[simp] theorem State.tick_received (s : State) : (s.tick).received = s.received := rfl
@[simp] theorem State.tick_kept (s : State) : (s.tick).kept = s.kept := rfl
@[simp] theorem State.tick_samples (s : State) : (s.tick).samples = s.samples := rfl
@[simp] theorem State.tick_script (s : State) : (s.tick).script = s.script := rfl
@[simp] theorem State.tick_cycle (s : State) : (s.tick).cycle = s.cycle + 1 := rfl

@[simp] theorem State.afterReset_cfg (cfg : Configuration) (lat : Nat) : (State.afterReset cfg lat).cfg = cfg := rfl
@[simp] theorem State.afterReset_latency (cfg : Configuration) (lat : Nat) : (State.afterReset cfg lat).latency = lat := rfl
@[simp] theorem State.afterReset_inFlight (cfg : Configuration) (lat : Nat) : (State.afterReset cfg lat).inFlight = [] := rfl
@[simp] theorem State.afterReset_rspValid (cfg : Configuration) (lat : Nat) : (State.afterReset cfg lat).rspValid = false := rfl
@[simp] theorem State.afterReset_reqReady (cfg : Configuration) (lat : Nat) : (State.afterReset cfg lat).reqReady = true := rfl
@[simp] theorem State.afterReset_accepted (cfg : Configuration) (lat : Nat) : (State.afterReset cfg lat).accepted = [] := rfl
@[simp] theorem State.afterReset_received (cfg : Configuration) (lat : Nat) : (State.afterReset cfg lat).received = [] := rfl
@[simp] theorem State.afterReset_kept (cfg : Configuration) (lat : Nat) : (State.afterReset cfg lat).kept = [] := rfl
@[simp] theorem State.afterReset_samples (cfg : Configuration) (lat : Nat) : (State.afterReset cfg lat).samples = [] := rfl
@[simp] theorem State.afterReset_script (cfg : Configuration) (lat : Nat) : (State.afterReset cfg lat).script = [] := rfl
@[simp] theorem State.afterReset_cycle (cfg : Configuration) (lat : Nat) : (State.afterReset cfg lat).cycle = 0 := rfl

@[simp] theorem State.deliver_cfg (s : State) (b : Bool) : (s.deliver b).cfg = s.cfg := rfl
@[simp] theorem State.deliver_latency (s : State) (b : Bool) : (s.deliver b).latency = s.latency := rfl
@[simp] theorem State.deliver_inFlight (s : State) (b : Bool) :
    (s.deliver b).inFlight = if b then s.inFlight.tail else s.inFlight := rfl
@[simp] theorem State.deliver_rspValid (s : State) (b : Bool) : (s.deliver b).rspValid = s.rspValid := rfl
@[simp] theorem State.deliver_reqReady (s : State) (b : Bool) : (s.deliver b).reqReady = s.reqReady := rfl
@[simp] theorem State.deliver_accepted (s : State) (b : Bool) : (s.deliver b).accepted = s.accepted := rfl
@[simp] theorem State.deliver_received (s : State) (b : Bool) :
    (s.deliver b).received = if b then s.received ++ (s.inFlight.head?.map InFlight.response).toList else s.received := rfl
@[simp] theorem State.deliver_kept (s : State) (b : Bool) : (s.deliver b).kept = s.kept := rfl
@[simp] theorem State.deliver_samples (s : State) (b : Bool) : (s.deliver b).samples = s.samples := rfl
@[simp] theorem State.deliver_script (s : State) (b : Bool) : (s.deliver b).script = s.script := rfl
@[simp] theorem State.deliver_cycle (s : State) (b : Bool) : (s.deliver b).cycle = s.cycle := rfl

/-- `rsp_valid` of the next cycle where nothing stays in flight. -/
theorem State.tick_rspValid_nil {s : State} (h : s.inFlight = []) : s.tick.rspValid = false := by
  simp [State.tick, h]

/-- `rsp_valid` of the next cycle where the oldest request in flight is `e`. -/
theorem State.tick_rspValid_cons {s : State} {e : InFlight} {rest : List InFlight} (h : s.inFlight = e :: rest) :
    s.tick.rspValid = (decide (s.latency ≤ e.age + 1) || Config.offersEarly s.cycle) := by
  simp [State.tick, h, dueAt]

/-- `req_ready` of the next cycle: an engine with nothing in flight is willing. -/
theorem State.tick_reqReady (s : State) :
    s.tick.reqReady = (s.inFlight.isEmpty || Config.acceptsMore s.cycle) := by
  cases h : s.inFlight <;> simp [State.tick, h]

@[simp] theorem InFlight.response_comp_aged :
    (InFlight.response ∘ fun e : InFlight => { e with age := e.age + 1 }) = InFlight.response := rfl

@[simp] theorem InFlight.request_comp_aged :
    (InFlight.request ∘ fun e : InFlight => { e with age := e.age + 1 }) = InFlight.request := rfl

end Sys2Proof.Machine
end

