-- ==== Sys2Proof/Laws/Clock.lean ====
section
/-! SUPPORT. What a clock edge and a step can do, said once (spec/10_state.md R28, spec/70_reset_and_hazards.md R105,
R106): the lemmas that the proofs cite in place of unfolding `step`. -/

namespace Sys2Proof.Machine

@[simp] theorem rspValidOut_popEvent (s : State) (p : Pins) : rspValidOut s.popEvent p = rspValidOut s p := rfl

@[simp] theorem reqReadyOut_popEvent (s : State) (p : Pins) : reqReadyOut s.popEvent p = reqReadyOut s p := rfl

@[simp] theorem rspData_popEvent (s : State) (p : Pins) : rspData s.popEvent p = rspData s p := rfl

@[simp] theorem reqTransfers_popEvent (s : State) (p : Pins) : reqTransfers s.popEvent p = reqTransfers s p := rfl

@[simp] theorem rspTransfers_popEvent (s : State) (p : Pins) : rspTransfers s.popEvent p = rspTransfers s p := rfl

@[simp] theorem rspReadable_popEvent (s : State) (p : Pins) : rspReadable s.popEvent p = rspReadable s p := rfl

/-- With `rst = 1` there is no response on the port. -/
@[simp] theorem rspReadable_rst {s : State} {p : Pins} (h : p.rst = true) : rspReadable s p = false := by
  simp [rspReadable, rspData, rspValidOut, h]

/-- Everything an edge does after the request: to the fields that hold what is in flight and what has transferred. -/
theorem finishEdge_fields (s : State) (p : Pins) (t : State) :
    (finishEdge s p t).cfg = t.cfg ∧ (finishEdge s p t).latency = t.latency ∧
    (finishEdge s p t).accepted = t.accepted ∧ (finishEdge s p t).kept = t.kept ∧
    (finishEdge s p t).script = t.script ∧ (finishEdge s p t).cycle = t.cycle + 1 ∧
    (finishEdge s p t).received =
      (if rspTransfers s p then t.received ++ (t.inFlight.head?.map InFlight.response).toList else t.received) ∧
    (finishEdge s p t).inFlight =
      ((if rspTransfers s p then t.inFlight.tail else t.inFlight).map fun e => { e with age := e.age + 1 }) ∧
    (finishEdge s p t).samples = (if p.readsRspData then t.samples ++ (rspData s p).toList else t.samples) := by
  refine ⟨rfl, rfl, rfl, rfl, rfl, rfl, rfl, rfl, ?_⟩
  cases h : p.readsRspData <;> simp [finishEdge, h]

/-- An edge in reset on which the host reads nothing. -/
theorem clockEdge_reset {p : Pins} (s : State) (hr : p.rst = true) (hd : p.readsRspData = false) :
    clockEdge p s = .next { s.dropRequests with cycle := s.cycle + 1 } := by
  simp [clockEdge, hr, hd]

/-- The first test of a clock edge fails where the host reads nothing, or reads a value. -/
theorem clockEdge_not_fault {p : Pins} {s : State} (hs : p.readsSafely s) :
    (p.readsRspData && !rspReadable s p) = false := by
  cases h : p.readsRspData
  · rfl
  · simp [hs h]

/-- An edge on which no request transfers. -/
theorem clockEdge_quiet {p : Pins} {s : State} (hr : p.rst = false) (hs : p.readsSafely s)
    (hq : reqTransfers s p = false) : clockEdge p s = .next (finishEdge s p s) := by
  simp [clockEdge, clockEdge_not_fault hs, hr, fetched, hq]

/-- An edge on which the request on the ports transfers. -/
theorem clockEdge_accepts {p : Pins} {s : State} (hr : p.rst = false) (hs : p.readsSafely s)
    (hq : reqTransfers s p = true) :
    clockEdge p s = .next (finishEdge s p (s.accept p.instr (respond s.cfg p.instr))) := by
  simp [clockEdge, clockEdge_not_fault hs, hr, fetched, hq, exec_eq, afterExec]

/-- A step on a clock cycle is that clock edge, with the event off the script. -/
theorem step_clock {s : State} {p : Pins} (h : s.nextEvent = .clock p) : step s = clockEdge p s.popEvent := by
  simp [step, h, hostEvent]

/-- Everything a clock edge can do, where it gives a next state. -/
theorem clockEdge_cases {p : Pins} {s t : State} (h : clockEdge p s = .next t) :
    (p.rst = true ∧ p.readsRspData = false ∧ t = { s.dropRequests with cycle := s.cycle + 1 }) ∨
    (p.rst = false ∧ p.readsSafely s ∧ reqTransfers s p = false ∧ t = finishEdge s p s) ∨
    (p.rst = false ∧ p.readsSafely s ∧ reqTransfers s p = true ∧
      t = finishEdge s p (s.accept p.instr (respond s.cfg p.instr))) := by
  unfold clockEdge at h
  split at h
  · cases h
  next hread =>
    have hsafe : p.readsSafely s := by
      intro hr
      cases hv : rspReadable s p
      · simp [hr, hv] at hread
      · rfl
    cases hrst : p.rst
    · cases hq : reqTransfers s p
      · simp [hrst, fetched, hq] at h
        exact .inr (.inl ⟨rfl, hsafe, rfl, h.symm⟩)
      · simp [hrst, fetched, hq, exec_eq, afterExec] at h
        exact .inr (.inr ⟨rfl, hsafe, rfl, h.symm⟩)
    · simp [hrst] at h
      refine .inl ⟨rfl, ?_, h.symm⟩
      cases hr : p.readsRspData
      · rfl
      · exact absurd (hsafe hr) (by simp [hrst])

/-- Everything a step can do, where it gives a next state: a loss of power, an edge in reset, an edge on which no
request transfers, an edge on which one does. -/
theorem step_cases {s t : State} (h : step s = .next t) :
    (s.nextEvent = .powerLoss ∧ t = s.popEvent.dropRequests) ∨
    ∃ p, s.nextEvent = .clock p ∧
      ((p.rst = true ∧ p.readsRspData = false ∧ t = { s.popEvent.dropRequests with cycle := s.cycle + 1 }) ∨
       (p.rst = false ∧ p.readsSafely s ∧ reqTransfers s p = false ∧ t = finishEdge s.popEvent p s.popEvent) ∨
       (p.rst = false ∧ p.readsSafely s ∧ reqTransfers s p = true ∧
         t = finishEdge s.popEvent p (s.popEvent.accept p.instr (respond s.cfg p.instr)))) := by
  unfold step at h
  cases he : s.nextEvent with
  | powerLoss =>
    simp [he, hostEvent, losePower] at h
    exact .inl ⟨rfl, h.symm⟩
  | clock p =>
    rw [he] at h
    exact .inr ⟨p, rfl, by simpa [Pins.readsSafely] using clockEdge_cases h⟩

end Sys2Proof.Machine
end

