-- ==== Sys2Proof/Laws/PerInstr.lean ====
section
/-! SUPPORT. Statements about every instruction as syntax, one lemma per constructor. `TableRow`: its word has the `match`
value of its row of spec/opcode_table.json under the mask 0x300 (spec/30_encoding.md R62), and its operand is a byte. -/

namespace Sys2Proof.Laws.TableRow

/-- The `match` value of the row of spec/opcode_table.json. -/
def matchValue : Instr → ReqWord
  | .sub _ => 0x000
  | .isub _ => 0x100
  | .perm _ => 0x200
  | .iperm _ => 0x300

/-- The word of the instruction lies in its own row, and the instruction is well-formed. -/
def Statement (i : Instr) : Prop := encode i &&& 0x300 = matchValue i ∧ i.wf = true

theorem sub (d : Byte) : Statement (.sub d) := by
  unfold Statement; revert d; decide

theorem isub (d : Byte) : Statement (.isub d) := by
  unfold Statement; revert d; decide

theorem perm (d : Byte) : Statement (.perm d) := by
  unfold Statement; revert d; decide

theorem iperm (d : Byte) : Statement (.iperm d) := by
  unfold Statement; revert d; decide

end Sys2Proof.Laws.TableRow
end

