-- ==== Sys2Proof/Laws/Run.lean ====
section
/-! SUPPORT. Runs of many steps: the induction that every claim about a run needs, once. -/

namespace Sys2Proof.Machine

/-- A run of one step more is the rest of the run from the next state. -/
theorem run_succ {s t : State} (h : step s = .next t) (n : Nat) :
    Sys2Proof.core.run (n + 1) s = Sys2Proof.core.run n t := by
  have general (M : Host.Core) (s t : M.State) (h : M.step s = .next t) : M.run (n + 1) s = M.run n t := by
    simp only [Host.Core.run, h]
  exact general Sys2Proof.core s t h

/-- A run that gives a state and has a first step goes through the state after that step. -/
theorem run_succ_next {n : Nat} {s t : State} (h : Sys2Proof.core.run (n + 1) s = .next t) :
    ∃ u, step s = .next u ∧ Sys2Proof.core.run n u = .next t := by
  have general (M : Host.Core) (s t : M.State) (h : M.run (n + 1) s = .next t) :
      ∃ u, M.step s = .next u ∧ M.run n u = .next t := by
    simp only [Host.Core.run] at h
    split at h
    next u hu => exact ⟨u, hu, h⟩
    · cases h
    · cases h
  exact general Sys2Proof.core s t h

/-- What every step keeps, every run keeps. -/
theorem run_invariant {P : State → Prop} (hstep : ∀ s t, P s → step s = .next t → P t) {n : Nat} :
    ∀ {s t : State}, P s → Sys2Proof.core.run n s = .next t → P t := by
  induction n with
  | zero => intro s t hs h; cases h; exact hs
  | succ n ih =>
    intro s t hs h
    obtain ⟨u, hu, hr⟩ := run_succ_next h
    exact ih (hstep s u hs hu) hr

end Sys2Proof.Machine
end

