-- ==== Sys2Proof/Laws/Tables.lean ====
section
/-! SUPPORT. The lookups of a configuration undo each other (spec/10_state.md R18, R20, R21), and the installed
tables have the one entry that the source gives (R17). -/

namespace Sys2Proof

/-- The installed SBOX has entry 0 = 0x9 (R17), whatever the free constants are. -/
theorem Config.installed_isSource : Config.installed.isSource = true := by
  simp [Configuration.isSource, Config.installed, Config.tables, Config.sboxPerm]

theorem Configuration.rsbox_sbox (c : Configuration) (x : Nibble) :
    c.tables.invSubNibble (c.tables.subNibble x) = x :=
  ((c.tables.rsboxInverse_iff.mp (c.tables.wf_iff_inverses.mp c.wf).1) x).1

theorem Configuration.sbox_rsbox (c : Configuration) (x : Nibble) :
    c.tables.subNibble (c.tables.invSubNibble x) = x :=
  ((c.tables.rsboxInverse_iff.mp (c.tables.wf_iff_inverses.mp c.wf).1) x).2

theorem Configuration.rpbox_pbox (c : Configuration) (j : BitPos) :
    c.tables.invPermPos (c.tables.permPos j) = j :=
  ((c.tables.rpboxInverse_iff.mp (c.tables.wf_iff_inverses.mp c.wf).2) j).1

theorem Configuration.pbox_rpbox (c : Configuration) (j : BitPos) :
    c.tables.permPos (c.tables.invPermPos j) = j :=
  ((c.tables.rpboxInverse_iff.mp (c.tables.wf_iff_inverses.mp c.wf).2) j).2

end Sys2Proof
end

