-- ==== Sys2Proof/Tests/Slice0.lean ====
section
/-! SUPPORT. Tests. Every expected value is from spec/95_test_vectors.md or worked out by hand from the rule named. Vectors of
configuration E test the mechanics: E is NOT the hardware's tables (spec/92_eei_decisions.md D22). -/

namespace Sys2Proof.Tests

open Sys2Proof.Machine

/-- The tables of the example configuration E (95_test_vectors.md). -/
def tablesE : Tables where
  sbox := #v[0x9, 0x4, 0xA, 0xB, 0xD, 0x1, 0x8, 0x5, 0x6, 0x2, 0x0, 0x3, 0xC, 0xE, 0xF, 0x7]
  rsbox := #v[0xA, 0x5, 0x9, 0xB, 0x1, 0x7, 0x8, 0xF, 0x6, 0x0, 0x2, 0x3, 0xC, 0x4, 0xD, 0xE]
  pbox := #v[3, 0, 5, 1, 7, 4, 6, 2]
  rpbox := #v[1, 3, 7, 0, 5, 2, 6, 4]

/-- The identity PBOX of L2.5, with E's SBOX. -/
def tablesId : Tables := { tablesE with pbox := #v[0, 1, 2, 3, 4, 5, 6, 7], rpbox := #v[0, 1, 2, 3, 4, 5, 6, 7] }

/-- An SBOX that sends `x` to `x + 9`: entry 0 is 0x9, and no byte is a fixed point. -/
def tablesShift : Tables :=
  { tablesId with
    sbox := #v[9, 10, 11, 12, 13, 14, 15, 0, 1, 2, 3, 4, 5, 6, 7, 8]
    rsbox := #v[7, 8, 9, 10, 11, 12, 13, 14, 15, 0, 1, 2, 3, 4, 5, 6] }

def cfgE : Configuration := ⟨tablesE, by decide⟩
def cfgId : Configuration := ⟨tablesId, by decide⟩
def cfgShift : Configuration := ⟨tablesShift, by decide⟩

/-! ## The checks: an ill-formed term for each (L2.5, R48, R56) -/

theorem test_E_is_well_formed : tablesE.wf = true ∧ tablesE.failures = [] ∧ cfgE.isSource = true := by decide

theorem test_identity_pbox_is_well_formed : tablesId.wf = true := by decide

theorem test_sbox_duplicate_refused :
    Tables.failures { tablesE with sbox := #v[9, 9, 0xA, 0xB, 0xD, 1, 8, 5, 6, 2, 0, 3, 0xC, 0xE, 0xF, 7] } =
      [.sboxNotBijective, .rsboxNotInverse] := by decide

theorem test_rsbox_swapped_refused :
    Tables.failures { tablesE with rsbox := #v[5, 0xA, 9, 0xB, 1, 7, 8, 0xF, 6, 0, 2, 3, 0xC, 4, 0xD, 0xE] } =
      [.rsboxNotInverse] := by decide

theorem test_pbox_duplicate_refused :
    Tables.failures { tablesE with pbox := #v[0, 0, 1, 2, 3, 4, 5, 6] } = [.pboxNotBijective, .rpboxNotInverse] := by
  decide

theorem test_rpbox_not_inverse_refused : Tables.failures { tablesE with rpbox := tablesE.pbox } = [.rpboxNotInverse] := by
  decide

/-- L2.5, last row: well-formed, but not the source's hardware. -/
theorem test_well_formed_but_not_source :
    let t := { tablesE with
      sbox := #v[4, 9, 0xA, 0xB, 0xD, 1, 8, 5, 6, 2, 0, 3, 0xC, 0xE, 0xF, 7]
      rsbox := #v[0xA, 5, 9, 0xB, 0, 7, 8, 0xF, 6, 1, 2, 3, 0xC, 4, 0xD, 0xE] }
    t.wf = true ∧ t.subNibble 0 ≠ 9 := by decide

theorem test_wide_number_is_no_word : reqWordFits 1024 = false ∧ reqWordFits 1023 = true := by decide

theorem test_wide_number_is_no_byte : byteFits 256 = false ∧ byteFits 255 = true := by decide

theorem test_instr_well_formed : (Instr.sub 0xFF).wf = true ∧ (Instr.iperm 0).wf = true := by decide

/-! ## Decoding: words written out bit by bit from R49 and R50 (L2.1) -/

theorem test_decode_sub : decode 0b0000000000 = .sub 0x00 ∧ decode 0b0000000101 = .sub 0x05 := by decide

theorem test_decode_isub : decode 0b0110011001 = .isub 0x99 ∧ decode 0b0100101010 = .isub 0x2A := by decide

theorem test_decode_perm : decode 0b1011111111 = .perm 0xFF ∧ decode 0b1010000000 = .perm 0x80 := by decide

theorem test_decode_iperm : decode 0b1111111111 = .iperm 0xFF ∧ decode 0b1100000000 = .iperm 0x00 := by decide

theorem test_decode_rejects_wide : decodeTableWord 16 0x400 = none ∧ decodeTableWord 10 0x3FF = some (.iperm 0xFF) := by
  decide

/-! ## The four operations (L2.2, L2.3, configuration E) -/

theorem test_sub_vectors :
    ([0x00, 0xFF, 0x0F, 0xF0, 0x01, 0x10, 0x5A, 0xA5, 0x99, 0x12, 0x34, 0xAB, 0x48, 0xD6, 0xCC] : List Byte).map
      (subByte tablesE) =
    [0x99, 0x77, 0x97, 0x79, 0x94, 0x49, 0x10, 0x01, 0x22, 0x4A, 0xBD, 0x03, 0xD6, 0xE8, 0xCC] := by decide

theorem test_isub_vectors :
    ([0x00, 0xFF, 0x0F, 0xF0, 0x01, 0x10, 0x5A, 0xA5, 0x99, 0x12, 0x34, 0xAB, 0x48, 0xD6, 0xCC] : List Byte).map
      (isubByte tablesE) =
    [0xAA, 0xEE, 0xAE, 0xEA, 0xA5, 0x5A, 0x72, 0x27, 0x00, 0x59, 0xB1, 0x23, 0x16, 0x48, 0xCC] := by decide

theorem test_perm_vectors :
    ([0x01, 0x02, 0x04, 0x08, 0x10, 0x20, 0x40, 0x80, 0x0F, 0xF0, 0x5A, 0xA5, 0x99, 0x12, 0x34, 0xAB, 0xD6] :
      List Byte).map (permByte tablesE) =
    [0x08, 0x01, 0x20, 0x02, 0x80, 0x10, 0x40, 0x04, 0x2B, 0xD4, 0xC3, 0x3C, 0x8E, 0x81, 0xB0, 0x1F, 0xE5] := by decide

theorem test_iperm_vectors :
    ([0x01, 0x02, 0x04, 0x08, 0x10, 0x20, 0x40, 0x80, 0x0F, 0xF0, 0x5A, 0xA5, 0x99, 0x12, 0x34, 0xAB, 0xD6] :
      List Byte).map (ipermByte tablesE) =
    [0x02, 0x08, 0x80, 0x01, 0x20, 0x04, 0x40, 0x10, 0x8B, 0x74, 0x69, 0x96, 0x33, 0x28, 0xA4, 0x1F, 0xF8] := by decide

/-! ## Sequences and pipelines (L2.6, L3.1) -/

theorem test_cipher_of_hello :
    fwd cfgE hello = [0xE5, 0x0C, 0x26, 0x26, 0x2D, 0x1E, 0xE8, 0x2D, 0xC3, 0x26, 0x2E, 0x34] ∧
    rev cfgE (fwd cfgE hello) = hello := by decide

theorem test_wrong_order_of_hello :
    wrongRev cfgE (fwd cfgE hello) =
      [0xFA, 0x95, 0x31, 0x31, 0xB0, 0xE3, 0xF8, 0xB0, 0x5B, 0x31, 0xB3, 0x36] ∧
    orderSensitive cfgE = true ∧ orderSensitive cfgId = false := by decide

/-- R60 on one byte: L3.4, requests 0 and 4, then 5 and 6. -/
theorem test_pipeline_requests :
    (Pseudo.fwd [0x41]).requests cfgE = [.sub 0x41, .perm 0xD4] ∧
    (Pseudo.rev [0xE4]).requests cfgE = [.iperm 0xE4, .isub 0xD4] := by decide

/-! ## The assembler (L2.1, R56 to R60) -/

theorem test_assemble_lines :
    assemble "SUB 0x00".toList = .ok (.sub 0) ∧ assemble "ISUB 0x99".toList = .ok (.isub 0x99) ∧
    assemble "PERM 0xff".toList = .ok (.perm 0xFF) ∧ assemble "IPERM 255".toList = .ok (.iperm 0xFF) ∧
    assemble "sub 0x5".toList = .ok (.sub 5) := by decide

theorem test_assemble_refusals :
    assemble "SUB 256".toList = .error .byteOutOfRange ∧ assemble "XOR 0x01".toList = .error .unknownMnemonic ∧
    assemble "SUB".toList = .error .missingOperand ∧ assemble "SUB 0x01, 0x02".toList = .error .secondOperand ∧
    assemble "SUB 0x01 rounds=2".toList = .error .roundKeyOrModeOperand ∧
    assemble "SUB 0x100".toList = .error .byteOutOfRange ∧ assemble "SUB 0xg0".toList = .error .malformedOperand := by
  decide

/-- R57 whatever the form of the first operand: a setting, a second operand, a value outside 0..255. -/
theorem test_refusals_after_any_operand :
    assemblePseudo "FWD \"text\" rounds=2".toList = .error .roundKeyOrModeOperand ∧
    assemblePseudo "FWD [] rounds=2".toList = .error .roundKeyOrModeOperand ∧
    assemble "SUB rounds=2".toList = .error .roundKeyOrModeOperand ∧
    assemble "SUB [1] 2".toList = .error .secondOperand ∧ assemblePseudo "SUB [1] 2".toList = .error .secondOperand ∧
    assemble "SUB -1".toList = .error .byteOutOfRange ∧ assemblePseudo "REV [0, 256]".toList = .error .byteOutOfRange ∧
    assemblePseudo "FWD".toList = .error .missingOperand ∧ assemblePseudo "SUB \"a=b\"".toList = .ok (.seq .sub [97, 61, 98]) := by
  decide

/-- The choices of log entry 14 about brackets and quotes. -/
theorem test_brackets_and_quotes :
    assemblePseudo "SUB[0x01 ,2]".toList = .ok (.seq .sub [1, 2]) ∧ assemblePseudo "SUB\"x\"".toList = .ok (.seq .sub [120]) ∧
    assemblePseudo "SUB \"x".toList = .error .malformedOperand ∧ assemblePseudo "SUB [1,]".toList = .error .malformedOperand := by
  decide

theorem test_disassemble :
    disassemble 0x12A = "ISUB 0x2a".toList ∧ disassemble 0x280 = "PERM 0x80".toList ∧
    disassemble 0x005 = "SUB 0x05".toList := by decide

theorem test_assemble_pseudo :
    assemblePseudo "SUB []".toList = .ok (.seq .sub []) ∧
    assemblePseudo "PERM [0x00, 0xff, 0x00]".toList = .ok (.seq .perm [0x00, 0xFF, 0x00]) ∧
    assemblePseudo "FWD \"Hello world!\"".toList = .ok (.fwd hello) ∧
    assemblePseudo "REV 0x41".toList = .ok (.rev [0x41]) ∧
    assemblePseudo "NOP []".toList = .error .unknownMnemonic := by decide

/-! ## The machine: one step on a small state -/

/-- What a step leaves in a field, where it gives a next state. -/
def after {α : Type} (o : Host.Outcome State Fault Refusal) (f : State → α) : Option α :=
  match o with
  | .next t => some (f t)
  | _ => none

/-- The fault a step ends in. -/
def faultOf (o : Host.Outcome State Fault Refusal) : Option Fault :=
  match o with
  | .fault f => some f
  | _ => none

/-- An engine with tables E just after reset, and the host's events. -/
def fresh (latency : Nat) (script : List HostEvent) : State := { State.afterReset cfgE latency with script := script }

/-- An engine with LATENCY 2 and two requests in flight, the older due; one response has transferred before. -/
def busy (script : List HostEvent) : State :=
  { State.afterReset cfgE 2 with
    inFlight := [⟨.isub 0x99, 0x00, 2⟩, ⟨.perm 0xFF, 0xFF, 1⟩]
    rspValid := true
    accepted := [.sub 0x00, .isub 0x99, .perm 0xFF]
    received := [0x99]
    script := script
    cycle := 3 }

/-- Reset held for a cycle. -/
def pinsReset : Pins := { Pins.idle with rst := true }

/-- A cycle in which the host reads `rsp_data` and takes nothing. -/
def pinsRead : Pins := { Pins.idle with readsRspData := true }

/-- A cycle in which the host offers PERM 0x80 and takes nothing. -/
def pinsOffer : Pins := { Pins.request 0x280 with rspReady := false }

/-- The very first step after reset runs the word that withFetchWord places, for each operation. -/
theorem test_first_word_runs :
    after (step (State.reset.withFetchWord 10 0x000)) (fun t => t.accepted) = some [.sub 0x00] ∧
    after (step (State.reset.withFetchWord 16 0x199)) (fun t => t.accepted) = some [.isub 0x99] ∧
    after (step (State.reset.withFetchWord 10 0x2FF)) (fun t => t.accepted) = some [.perm 0xFF] ∧
    after (step (State.reset.withFetchWord 16 0x300)) (fun t => t.accepted) = some [.iperm 0x00] := by decide

/-- R63 on the machine, LATENCY 1: the request is in flight with its response, a cycle old. -/
theorem test_sub_in_flight :
    after (step ((fresh 1 []).withFetchWord 10 0x000)) (fun t => (t.inFlight, t.received, t.rspValid)) =
      some ([⟨.sub 0x00, 0x99, 1⟩], [], true) := by decide

/-- R115: with LATENCY 0 the response transfers on the same edge. -/
theorem test_combinational_edge :
    after (step ((fresh 0 []).withFetchWord 10 0x280)) (fun t => (t.inFlight, t.received)) = some ([], [0x04]) := by decide

/-- L2.7: LATENCY 0, first cycle after reset, req_valid 1 and rsp_ready 0: rsp_valid 1, req_ready 0, nothing transfers. -/
theorem test_combinational_stall :
    rspValidOut (fresh 0 []) pinsOffer = true ∧ reqReadyOut (fresh 0 []) pinsOffer = false ∧
    after (step (fresh 0 [.clock pinsOffer])) (fun t => (t.accepted, t.received)) = some ([], []) := by decide

/-- R41: the oldest response leaves first, and the others stay. -/
theorem test_deliver_oldest :
    after (step (busy [.clock Pins.take])) (fun t => (t.received, t.inFlight)) =
      some ([0x99, 0x00], [⟨.perm 0xFF, 0xFF, 2⟩]) := by decide

/-- R106, L2.7: requests in flight at reset are dropped, what had transferred stays with the host. -/
theorem test_reset_drops :
    after (step (busy [.clock pinsReset])) (fun t => (t.inFlight, t.accepted, t.received, t.kept, t.reqReady)) =
      some ([], [], [], [0x99], true) := by decide

/-- R103. -/
theorem test_power_loss_drops :
    after (step (busy [.powerLoss])) (fun t => (t.inFlight, t.kept)) = some ([], [0x99]) := by decide

/-- R31, L2.7: a read before any response faults; with a response offered and one transferred before it gives the value. -/
theorem test_read_rsp_data :
    faultOf (step (fresh 1 [.clock pinsRead])) = some .rspDataHoldsNoValue ∧
    after (step (busy [.clock pinsRead])) (fun t => t.samples) = some [0x00] ∧
    faultOf (step { fresh 1 [.clock pinsRead] with received := [0x99] }) = some .rspDataHoldsNoValue := by decide

/-- R105: in reset both outputs are 0, though the state would give 1. -/
theorem test_outputs_in_reset :
    rspValidOut (busy []) pinsReset = false ∧ reqReadyOut (busy []) { pinsReset with rspReady := true } = false := by decide

/-- R104: a full engine whose host stalls does not accept. -/
theorem test_full_engine_stalls :
    reqReadyOut (busy []) pinsOffer = false ∧ reqReadyOut (busy []) (Pins.request 0x280) = true := by decide

/-- R109: the build. -/
theorem test_boot_refuses :
    (match boot { tablesE with rpbox := tablesE.pbox } 1 with
      | .refused (.configuration codes) => codes.map RefusalCode.code
      | _ => []) = [4] := by decide

/-! ## Witnesses: a concrete state and operands for the hypotheses of each statement that has any -/

theorem busy_disciplined (script : List HostEvent) : Disciplined (busy script) := by
  refine ⟨?_, ?_, ?_, ?_, ?_, ?_⟩ <;> simp [busy]

theorem busy_paired (script : List HostEvent) : Paired (busy script) :=
  ⟨show [0x99, 0x00, 0xFF] = [.sub 0x00, .isub 0x99, .perm 0xFF].map (respond cfgE) by decide, rfl⟩

theorem fresh_disciplined (latency : Nat) (script : List HostEvent) : Disciplined (fresh latency script) := by
  refine ⟨?_, ?_, ?_, ?_, ?_, ?_⟩ <;> simp [fresh]

theorem witness_SubRespondsWithSboxOfBothNibbles :
    cfgE.isSource = true ∧ hi 0x33 = lo 0x33 ∧ hi 0x12 = hi 0x13 ∧ lo 0x12 = lo 0x92 := by decide

theorem witness_IsubRespondsWithRsboxOfBothNibbles : cfgE.isSource = true ∧ cfgE.tables.subNibble 0xA = 0 := by decide

theorem witness_PermRespondsWithBitsMovedByPbox :
    (∀ j, tablesId.permPos j = j) ∧ ([7, 6, 5, 4, 3, 2, 1, 0] : List BitPos).Perm bitPositions := by decide

theorem witness_IpermRespondsWithBitsMovedByRpbox : ∀ j, cfgId.tables.permPos j = j := by decide

theorem witness_ExecFrame : ∃ t, exec (.perm 0x80) (busy []) = .next t := ⟨_, rfl⟩

theorem witness_ResponseIndependentOfState : (busy []).cfg = (fresh 0 [.powerLoss]).cfg ∧ busy [] ≠ fresh 0 [.powerLoss] := by
  decide

theorem witness_NibbleLookupsInBothLanes : cfgShift.isSource = true := by decide

theorem witness_SubstitutionIsTwoIndependentBijectiveLanes : lo 0x1F = lo 0xEF ∧ hi 0x1F ≠ hi 0xEF := by decide

theorem witness_OperationsReadOnlyTheirOwnTable :
    tablesE.sbox = tablesId.sbox ∧ tablesE.rsbox = tablesId.rsbox ∧ tablesE ≠ tablesId ∧
    tablesId.pbox = tablesShift.pbox ∧ tablesId.rpbox = tablesShift.rpbox ∧ tablesId ≠ tablesShift := by decide

theorem witness_EachTurnWritesItsOwnBit :
    (0 : BitPos) ≠ 7 ∧ ([1, 0, 3, 2, 5, 4, 7, 6] : List BitPos).Perm bitPositions := by decide

theorem witness_DecodeAndEncodeAgree : (Instr.iperm 0xFF).wf = true ∧ decodeNat 1024 = .error .widerThanReqWord := by
  constructor
  · decide
  · rfl

theorem witness_ForwardTablesFixTheInverseTables :
    tablesE.sboxBijective = true ∧ tablesE.pboxBijective = true ∧
    tablesE.subNibble 0xF = 7 ∧ tablesE.permPos 7 = 2 := by decide

/-- Tables that fail every condition. -/
def tablesBad : Tables :=
  { tablesE with
    sbox := #v[9, 9, 0xA, 0xB, 0xD, 1, 8, 5, 6, 2, 0, 3, 0xC, 0xE, 0xF, 7]
    pbox := #v[0, 0, 1, 2, 3, 4, 5, 6] }

theorem witness_BootRefusesIllFormedTables :
    tablesE.wf = true ∧ tablesBad.wf = false ∧ tablesBad.failures.map RefusalCode.code = [1, 2, 3, 4] := by decide

theorem witness_WellFormedMeansInverseBijections :
    tablesShift.wf = true ∧ Tables.wf { tablesE with rpbox := tablesE.pbox } = false := by decide

theorem witness_EveryWellFormedConfigurationIsAdmitted : cfgE.isSource = true := by decide

theorem witness_TablesAreNeverWritten :
    (∃ t, step (busy [.clock Pins.take]) = .next t) ∧ ∃ t, exec (.sub 0x00) (busy []) = .next t := ⟨⟨_, rfl⟩, ⟨_, rfl⟩⟩

theorem witness_FirstCycleAfterReset :
    (∃ q t, (busy [.clock pinsReset]).nextEvent = .clock q ∧ q.rst = true ∧ step (busy [.clock pinsReset]) = .next t) ∧
    (∃ cfg latency, State.reset = State.afterReset cfg latency) ∧
    pinsRead.rst = false ∧ pinsRead.readsRspData = true ∧ 1 ≤ (fresh 1 []).latency ∧ (fresh 0 []).latency = 0 :=
  ⟨⟨pinsReset, _, rfl, rfl, rfl⟩, ⟨_, _, rfl⟩, rfl, rfl, by decide, rfl⟩

theorem witness_OutputsLowInReset : pinsReset.rst = true := rfl

theorem witness_ResetDropsRequestsAndKeepsTables :
    (busy [.clock pinsReset]).nextEvent = .clock pinsReset ∧ pinsReset.rst = true ∧ pinsReset.readsRspData = false := by
  decide

theorem witness_PowerLossDropsRequestsAndKeepsTables : (busy [.powerLoss]).nextEvent = .powerLoss := rfl

theorem witness_TransfersFollowTheHandshake :
    Disciplined (busy [.clock (Pins.request 0x280)]) ∧
    (busy [.clock (Pins.request 0x280)]).nextEvent = .clock (Pins.request 0x280) ∧ (Pins.request 0x280).rst = false ∧
    (∃ t, step (busy [.clock (Pins.request 0x280)]) = .next t) ∧
    reqTransfers (busy []) (Pins.request 0x280) = true ∧ rspTransfers (busy []) (Pins.request 0x280) = true ∧
    reqTransfers (busy []) pinsOffer = false ∧ rspTransfers (busy []) pinsOffer = false :=
  ⟨busy_disciplined _, rfl, rfl, ⟨_, rfl⟩, by decide⟩

theorem witness_CombinationalForm :
    (fresh 0 []).latency = 0 ∧ (Pins.request 0x280).reqValid = true ∧ (Pins.request 0x280).rspReady = true ∧
    (Pins.request 0x280).readsRspData = false ∧ (Pins.request 0x280).rst = false ∧
    (fresh 0 [.clock (Pins.request 0x280)]).nextEvent = .clock (Pins.request 0x280) ∧
    Disciplined (fresh 0 [.clock (Pins.request 0x280)]) :=
  ⟨rfl, rfl, rfl, rfl, rfl, rfl, fresh_disciplined _ _⟩

/-- The same requests, answered on the edges that accepted them. -/
def answered (script : List HostEvent) : State :=
  { fresh 0 script with accepted := [.sub 0x00, .isub 0x99, .perm 0xFF], received := [0x99, 0x00, 0xFF] }

theorem answered_paired (script : List HostEvent) : Paired (answered script) :=
  ⟨show [0x99, 0x00, 0xFF] ++ [] = [.sub 0x00, .isub 0x99, .perm 0xFF].map (respond cfgE) by decide, rfl⟩

/-- The state an engine with LATENCY 2 reaches after a cycle in which its host takes a response. -/
def busyAfterTake : State := finishEdge (busy []) Pins.take (busy [])

theorem run_busy_take : Sys2Proof.core.run 1 (busy [.clock Pins.take]) = .next busyAfterTake :=
  run_succ (t := busyAfterTake) rfl 0

/-- One step of the LATENCY 2 engine and none of the LATENCY 0 engine: the same requests, one response fewer. -/
theorem witness_ResponsesDoNotDependOnLatency :
    Paired (busy [.clock Pins.take]) ∧ Paired (answered []) ∧ (busy [.clock Pins.take]).cfg = (answered []).cfg ∧
    Sys2Proof.core.run 1 (busy [.clock Pins.take]) = .next busyAfterTake ∧
    Sys2Proof.core.run 0 (answered []) = .next (answered []) ∧ busyAfterTake.accepted = (answered []).accepted ∧
    busyAfterTake.received = [0x99, 0x00] ∧ (answered []).received = [0x99, 0x00, 0xFF] :=
  ⟨busy_paired _, answered_paired _, rfl, run_busy_take, rfl, rfl, rfl, rfl⟩

/-- Its second clause: two engines of LATENCY 0 and 1 with nothing in flight. -/
theorem witness_ResponsesDoNotDependOnLatency_idle :
    Paired { answered [] with latency := 1 } ∧ (answered []).inFlight = [] ∧
    Sys2Proof.core.run 0 { answered [] with latency := 1 } = .next { answered [] with latency := 1 } :=
  ⟨answered_paired [], rfl, rfl⟩

theorem witness_OnlyReadsOfNoValueFault :
    (busy [.clock pinsRead]).nextEvent = .clock pinsRead ∧ pinsRead.readsRspData = true ∧
    (fresh 1 [.clock pinsRead]).nextEvent = .clock pinsRead ∧
    rspValidOut (fresh 1 []) pinsRead = false ∧ (fresh 1 []).received = [] ∧
    Disciplined (busy [.clock pinsRead]) ∧ rspValidOut (busy []) pinsRead = true ∧ (busy []).received ≠ [] ∧
    step (fresh 1 [.clock pinsRead]) = .fault .rspDataHoldsNoValue :=
  ⟨rfl, rfl, rfl, rfl, rfl, busy_disciplined _, rfl, by decide, rfl⟩

theorem witness_IdleEngineDoesNothing :
    Disciplined (fresh 3 []) ∧ (fresh 3 []).inFlight = [] ∧ (fresh 3 []).nextEvent = .clock Pins.idle ∧
    Pins.idle.rst = false ∧ Pins.idle.reqValid = false ∧ Pins.idle.readsRspData = false :=
  ⟨fresh_disciplined _ _, rfl, rfl, rfl, rfl, rfl⟩

theorem witness_StepRunsTheDecodedInstruction :
    (busy [.clock (Pins.request 0x280)]).nextEvent = .clock (Pins.request 0x280) ∧ (Pins.request 0x280).rst = false ∧
    (busy [.clock pinsOffer]).nextEvent = .clock pinsOffer ∧ pinsOffer.rst = false ∧ pinsOffer.readsSafely (busy []) ∧
    (Pins.request 0x280).readsSafely (busy []) ∧ (Pins.request 0x280).reqValid = true ∧ (Instr.perm 0x80).wf = true ∧
    reqReadyOut (busy []) (Pins.request 0x280) = true ∧
    decode (reqWordOf 2 0x80) = .perm 0x80 ∧ reqReadyOut (busy []) pinsOffer = false ∧
    decodeTableWord 10 0x280 = some (.perm 0x80) :=
  ⟨rfl, rfl, rfl, rfl, by simp [Pins.readsSafely, pinsOffer, Pins.request], by simp [Pins.readsSafely, Pins.request], rfl,
    by decide, by decide, by decide, by decide, by decide⟩

theorem witness_EveryStepKeepsThePairing :
    Paired (busy [.clock (Pins.request 0x280)]) ∧ ∃ t, step (busy [.clock (Pins.request 0x280)]) = .next t :=
  ⟨busy_paired _, _, rfl⟩

theorem witness_EveryStepKeepsTheDiscipline :
    Disciplined (busy [.clock (Pins.request 0x280)]) ∧ ∃ t, step (busy [.clock (Pins.request 0x280)]) = .next t :=
  ⟨busy_disciplined _, _, rfl⟩

theorem witness_KthResponseAnswersKthRequest :
    Paired (busy [.clock Pins.take]) ∧
    ∃ t, Sys2Proof.core.run 1 (busy [.clock Pins.take]) = .next t ∧ t.received[1]? = some 0x00 :=
  ⟨busy_paired _, _, run_busy_take, rfl⟩

theorem witness_NothingIsLostWithoutReset :
    Paired (busy [.clock Pins.take]) ∧ (busy [.clock Pins.take]).nextEvent = .clock Pins.take ∧ Pins.take.rst = false ∧
    ∃ t, step (busy [.clock Pins.take]) = .next t := ⟨busy_paired _, rfl, rfl, _, rfl⟩

theorem witness_ResponsesComeWithinLatency :
    Disciplined (busy ([Pins.take, Pins.take].map .clock ++ [.powerLoss])) ∧ [Pins.take, Pins.take].length = 2 ∧
    ∀ p ∈ [Pins.take, Pins.take], p.takes :=
  ⟨busy_disciplined _, rfl, by simp [Pins.takes, Pins.take, Pins.idle]⟩

theorem witness_EngineKeepsAcceptingRequests :
    let ps := [Pins.request 0x280, Pins.request 0x000, Pins.request 0x3FF]
    Disciplined (busy (ps.map .clock ++ [])) ∧ ps.length = 2 + 1 ∧ ∀ p ∈ ps, p.takes ∧ p.reqValid = true :=
  ⟨busy_disciplined _, rfl, by simp [Pins.takes, Pins.request]⟩

theorem witness_PipelinesUndoEachOther : hello[11]? = some 33 := rfl

theorem witness_WrongOrderIsNotALawEitherWay : ∀ j, cfgShift.tables.permPos j = j := by decide

theorem witness_SequenceOfRequestsGivesTheSequenceTransform :
    let s := fresh 0 (backToBack (requests .sub hello) ++ [.powerLoss])
    s.latency = 0 ∧ s.inFlight = [] ∧ s.script = backToBack (requests .sub hello) ++ [.powerLoss] := ⟨rfl, rfl, rfl⟩

/-- LATENCY 1: a host that offers SUB 0x00 once, takes responses, and then waits a cycle. -/
theorem witness_AcceptedSequenceIsAnsweredAtEveryLatency :
    let s := fresh 1 ([Pins.request 0x000].map .clock ++ ([Pins.take].map .clock ++ []))
    Disciplined s ∧ s.inFlight = [] ∧ (∀ p ∈ [Pins.request 0x000], p.takes) ∧
    (∀ q ∈ [Pins.take], q.takes ∧ q.reqValid = false) ∧ [Pins.take].length = s.latency ∧
    ∃ t, Sys2Proof.core.run 1 s = .next t ∧ t.accepted = s.accepted ++ requests .sub [0x00] :=
  ⟨fresh_disciplined _ _, rfl, by simp [Pins.takes, Pins.request], by simp [Pins.takes, Pins.take, Pins.idle], rfl, _,
    run_succ (t := finishEdge (fresh 1 [.clock Pins.take]) (Pins.request 0x000)
      ((fresh 1 [.clock Pins.take]).accept (.sub 0x00) 0x99)) rfl 0, rfl⟩

theorem witness_PacedSequenceGivesTheSequenceTransform :
    let s := fresh 2 (paced 2 (requests .perm hello) ++ [.powerLoss])
    Disciplined s ∧ s.inFlight = [] ∧ s.script = paced s.latency (requests .perm hello) ++ [.powerLoss] :=
  ⟨fresh_disciplined _ _, rfl, rfl⟩

/-- For a line of each refusal: its tokens, its mnemonic, and what stands after it. -/
theorem witness_AssemblerRefusesByName :
    tokens "SUB 256".toList = [.word "SUB".toList, .word "256".toList] ∧ (parseOp "SUB".toList).isSome = true ∧
    parseOp "XOR".toList = none ∧ parseMagnitude "256".toList = some 256 ∧ parseMagnitude "1".toList = some 1 ∧
    Token.isSetting (.word "rounds=2".toList) = true ∧ Token.isSetting (.word "-1".toList) = false ∧
    firstOperand (tokens "[1] 2".toList) = .ok (.list [.word "1".toList], [.word "2".toList]) ∧
    Token.beginsOperand (.word "2".toList) = true := by decide

theorem witness_AssemblerRefusesByName_pseudo :
    tokens "FWD 1".toList = [.word "FWD".toList, .word "1".toList] ∧
    (parsePseudoMnemonic "FWD".toList).isSome = true ∧ parsePseudoMnemonic "XOR".toList = none :=
  ⟨by decide, by decide, rfl⟩

end Sys2Proof.Tests
end

section
/-! The tables of a well-formed configuration are two permutations with their inverses (spec/10_state.md R17 to R20), so
the form of the free constants (log entry 1) shuts none of them out. -/

namespace Sys2Proof

/-- Tables with the same lookups are the same tables. -/
theorem Tables.ext_lookups {t u : Tables} (hs : ∀ x, t.subNibble x = u.subNibble x)
    (hr : ∀ x, t.invSubNibble x = u.invSubNibble x) (hp : ∀ j, t.permPos j = u.permPos j)
    (hq : ∀ j, t.invPermPos j = u.invPermPos j) : t = u := by
  obtain ⟨sbox, rsbox, pbox, rpbox⟩ := t
  obtain ⟨sbox', rsbox', pbox', rpbox'⟩ := u
  have hsbox : sbox = sbox' := Vector.ext fun i hi => hs (BitVec.ofFin ⟨i, hi⟩)
  have hrsbox : rsbox = rsbox' := Vector.ext fun i hi => hr (BitVec.ofFin ⟨i, hi⟩)
  have hpbox : pbox = pbox' := Vector.ext fun i hi => hp (BitVec.ofFin ⟨i, hi⟩)
  have hrpbox : rpbox = rpbox' := Vector.ext fun i hi => hq (BitVec.ofFin ⟨i, hi⟩)
  rw [hsbox, hrsbox, hpbox, hrpbox]

/-- SBOX as a permutation of the nibbles, with RSBOX as its inverse (R17, R18). -/
def Configuration.nibblePerm (c : Configuration) : Equiv.Perm Nibble where
  toFun := c.tables.subNibble
  invFun := c.tables.invSubNibble
  left_inv := c.rsbox_sbox
  right_inv := c.sbox_rsbox

/-- PBOX as a permutation of the bit positions, with RPBOX as its inverse (R19, R20). -/
def Configuration.bitPerm (c : Configuration) : Equiv.Perm BitPos where
  toFun := c.tables.permPos
  invFun := c.tables.invPermPos
  left_inv := c.rpbox_pbox
  right_inv := c.pbox_rpbox

theorem Configuration.tables_eq_ofPerms (c : Configuration) : c.tables = Tables.ofPerms c.nibblePerm c.bitPerm := by
  apply Tables.ext_lookups
  · exact fun x => (Tables.ofPerms_subNibble c.nibblePerm c.bitPerm x).symm
  · exact fun x => (Tables.ofPerms_invSubNibble c.nibblePerm c.bitPerm x).symm
  · exact fun j => (Tables.ofPerms_permPos c.nibblePerm c.bitPerm j).symm
  · exact fun j => (Tables.ofPerms_invPermPos c.nibblePerm c.bitPerm j).symm

theorem Configuration.nibblePerm_zero {c : Configuration} (h : c.isSource = true) : c.nibblePerm 0 = 9 :=
  beq_iff_eq.mp h

/-- The correction that `Config.sboxPerm` makes leaves a permutation with entry 0 = 0x9 as it is. -/
theorem trans_swap_of_zero {σ : Equiv.Perm Nibble} (h : σ 0 = 9) : σ.trans (Equiv.swap (σ 0) 9) = σ := by
  rw [h, Equiv.swap_self, Equiv.trans_refl]

end Sys2Proof

open Sys2Proof in
/-- Settles O29: a well-formed configuration is that of `nibblePerm` and `bitPerm`, its own two forward tables. -/
theorem everyWellFormedConfigurationIsAdmitted : Obligations.EveryWellFormedConfigurationIsAdmitted :=
  ⟨fun c => ⟨c.nibblePerm, c.bitPerm, c.tables_eq_ofPerms, fun h => trans_swap_of_zero (Configuration.nibblePerm_zero h)⟩,
    Tables.ofPerms_wf, Config.installed_isSource⟩

end

section
/-! A response depends on the configuration and the request alone (spec/10_state.md R30, spec/20_memory.md R40). -/

open Sys2Proof Sys2Proof.Machine

/-- Settles O7: the entry is the request with F of the common configuration, which is all that `exec_eq` puts in flight. -/
theorem responseIndependentOfState : Obligations.ResponseIndependentOfState := by
  intro i s s' hcfg
  refine ⟨⟨i, respond s.cfg i, 0⟩, _, _, exec_eq i s, exec_eq i s', s.accept_inFlight i _, ?_⟩
  rw [hcfg]
  exact s'.accept_inFlight i _

end

section
/-! The operand forms as numbers (spec/00_scope.md R10, R11; spec/30_encoding.md R51). -/

namespace Sys2Proof

theorem toNat_hi (b : Byte) : (hi b).toNat = b.toNat / 16 := by
  have hmask : b.toNat / 2 ^ 4 &&& 15 % 2 ^ 8 = b.toNat / 2 ^ 4 % 2 ^ 4 := Nat.and_two_pow_sub_one_eq_mod _ 4
  simp only [hi, BitVec.toNat_setWidth, BitVec.toNat_and, BitVec.toNat_ushiftRight, Nat.shiftRight_eq_div_pow,
    BitVec.toNat_ofNat]
  omega

theorem toNat_lo (b : Byte) : (lo b).toNat = b.toNat % 16 := by
  have hmask : b.toNat &&& 15 % 2 ^ 8 = b.toNat % 2 ^ 4 := Nat.and_two_pow_sub_one_eq_mod _ 4
  simp only [lo, BitVec.toNat_setWidth, BitVec.toNat_and, BitVec.toNat_ofNat]
  omega

theorem toNat_joinNibbles (h l : Nibble) : (joinNibbles h l).toNat = h.toNat * 16 + l.toNat := by
  have hdiv := toNat_hi (joinNibbles h l)
  have hmod := toNat_lo (joinNibbles h l)
  rw [hi_joinNibbles] at hdiv
  rw [lo_joinNibbles] at hmod
  omega

theorem toNat_bitAt (b : Byte) (j : BitPos) : (bitAt b j).toNat = b.toNat / 2 ^ j.toNat % 2 := by
  simp [bitAt, Nat.shiftRight_eq_div_pow, Nat.and_one_is_mod]

theorem bitSet_eq_decide (b : Byte) (j : BitPos) : bitSet b j = decide (b.toNat / 2 ^ j.toNat % 2 = 1) :=
  Nat.testBit_eq_decide_div_mod_eq

theorem toNat_oneBit (j : BitPos) : (oneBit j).toNat = 2 ^ j.toNat := by
  have hlt : 2 ^ j.toNat < 2 ^ 8 := Nat.pow_lt_pow_right (by decide) j.isLt
  simpa [oneBit, Nat.shiftLeft_eq] using hlt

end Sys2Proof

open Sys2Proof in
/-- Settles O8: each form, by its lemma on `toNat`. -/
theorem operandFormsAsNumbers : Obligations.OperandFormsAsNumbers :=
  ⟨fun b => ⟨toNat_hi b, toNat_lo b⟩, toNat_joinNibbles, fun b j => ⟨toNat_bitAt b j, bitSet_eq_decide b j⟩,
    toNat_oneBit⟩

end

section
/-! The clock edge as one operation: the request on the ports is accepted if it transfers, and then the rest of the edge
follows (spec/10_state.md R28, R29); and the reads that make it fault (R31). -/

namespace Sys2Proof.Machine

/-- The state once the request on the ports, if it transfers, has been accepted (log entry 17). -/
def State.afterRequest (s : State) (p : Pins) : State :=
  if reqTransfers s p then s.accept p.instr (respond s.cfg p.instr) else s

theorem State.afterRequest_quiet {s : State} {p : Pins} (hq : reqTransfers s p = false) : s.afterRequest p = s := by
  simp [State.afterRequest, hq]

theorem State.afterRequest_accepts {s : State} {p : Pins} (hq : reqTransfers s p = true) :
    s.afterRequest p = s.accept p.instr (respond s.cfg p.instr) := by
  simp [State.afterRequest, hq]

@[simp] theorem State.afterRequest_cfg (s : State) (p : Pins) : (s.afterRequest p).cfg = s.cfg := by
  unfold State.afterRequest; split <;> rfl

@[simp] theorem State.afterRequest_latency (s : State) (p : Pins) : (s.afterRequest p).latency = s.latency := by
  unfold State.afterRequest; split <;> rfl

@[simp] theorem State.afterRequest_received (s : State) (p : Pins) : (s.afterRequest p).received = s.received := by
  unfold State.afterRequest; split <;> rfl

@[simp] theorem State.afterRequest_samples (s : State) (p : Pins) : (s.afterRequest p).samples = s.samples := by
  unfold State.afterRequest; split <;> rfl

theorem State.afterRequest_accepted (s : State) (p : Pins) :
    (s.afterRequest p).accepted = if reqTransfers s p then s.accepted ++ [p.instr] else s.accepted := by
  unfold State.afterRequest; split <;> rfl

/-- An edge without reset and without a read of no value, whether a request transfers on it or not. -/
theorem clockEdge_of_not_rst {p : Pins} {s : State} (hr : p.rst = false) (hs : p.readsSafely s) :
    clockEdge p s = .next (finishEdge s p (s.afterRequest p)) := by
  cases hq : reqTransfers s p
  · rw [clockEdge_quiet hr hs hq, State.afterRequest_quiet hq]
  · rw [clockEdge_accepts hr hs hq, State.afterRequest_accepts hq]

theorem not_readsSafely_iff {p : Pins} {s : State} :
    ¬ p.readsSafely s ↔ p.readsRspData = true ∧ rspReadable s p = false := by
  simp [Pins.readsSafely]

/-- Where the port holds no value to read: it has none in this cycle, or none has transferred since reset (R31). -/
theorem rspReadable_eq_false_iff {s : State} {p : Pins} :
    rspReadable s p = false ↔ rspData s p = none ∨ s.received = [] := by
  cases hd : rspData s p <;> simp [rspReadable, hd]

/-- R31: an edge with a read of no value faults. -/
theorem clockEdge_fault {p : Pins} {s : State} (h : ¬ p.readsSafely s) :
    clockEdge p s = .fault .rspDataHoldsNoValue := by
  obtain ⟨hread, hnone⟩ := not_readsSafely_iff.mp h
  simp [clockEdge, hread, hnone]

/-- Any other edge completes. -/
theorem clockEdge_completes {p : Pins} {s : State} (h : p.readsSafely s) : ∃ t, clockEdge p s = .next t := by
  cases hr : p.rst with
  | false => exact ⟨_, clockEdge_of_not_rst hr h⟩
  | true =>
    have hread : p.readsRspData = false :=
      Bool.eq_false_iff.mpr fun hread => by simpa [rspReadable_rst hr] using h hread
    exact ⟨_, clockEdge_reset s hr hread⟩

/-- What a step without reset leaves, where it gives a next state. -/
theorem step_of_not_rst {s t : State} {p : Pins} (he : s.nextEvent = .clock p) (hr : p.rst = false)
    (h : step s = .next t) : t = finishEdge s.popEvent p (s.popEvent.afterRequest p) := by
  rw [step_clock he] at h
  by_cases hs : p.readsSafely s.popEvent
  · simpa [clockEdge_of_not_rst hr hs] using h.symm
  · simp [clockEdge_fault hs] at h

/-- Everything a step can do, where it gives a next state: it drops what is in flight (a loss of power or an edge in
reset), or it is an edge without reset. -/
theorem step_drops_or_finishes {s t : State} (h : step s = .next t) :
    (∃ c, t = { s.popEvent.dropRequests with cycle := c }) ∨
    ∃ p, s.nextEvent = .clock p ∧ p.rst = false ∧ t = finishEdge s.popEvent p (s.popEvent.afterRequest p) := by
  obtain ⟨-, rfl⟩ | ⟨p, he, ⟨-, -, rfl⟩ | hedge⟩ := step_cases h
  · exact .inl ⟨s.cycle, rfl⟩
  · exact .inl ⟨s.cycle + 1, rfl⟩
  · have hr : p.rst = false := hedge.elim And.left And.left
    exact .inr ⟨p, he, hr, step_of_not_rst he hr h⟩

/-- A step completes, or it is a clock edge with a read of no value. -/
theorem step_completes_or_faults (s : State) :
    (∃ t, step s = .next t) ∨
    ∃ p, s.nextEvent = .clock p ∧ ¬ p.readsSafely s ∧ step s = .fault .rspDataHoldsNoValue := by
  cases he : s.nextEvent with
  | powerLoss => exact .inl ⟨s.popEvent.dropRequests, by simp [step, he, hostEvent, losePower]⟩
  | clock p =>
    rw [step_clock he]
    by_cases hs : p.readsSafely s
    · exact .inl (clockEdge_completes hs)
    · exact .inr ⟨p, rfl, hs, clockEdge_fault hs⟩

end Sys2Proof.Machine

end

section
/-! The discipline of the interface state (spec/60_exceptions.md R104, spec/70_reset_and_hazards.md R107, R114): an idle
engine has it, and an edge keeps it. The key is a count of ages: they strictly decrease and are at least 1, so the
oldest of LATENCY requests in flight is due, and its response makes room for the request that joins the queue. -/

namespace Sys2Proof.Machine

/-- Strictly decreasing positive numbers are no more than the first of them. -/
theorem length_lt_head_of_decreasing {a : Nat} {l : List Nat} (hdec : (a :: l).Pairwise (· > ·))
    (hpos : ∀ x ∈ a :: l, 1 ≤ x) : l.length < a := by
  induction l generalizing a with
  | nil => exact hpos a List.mem_cons_self
  | cons b l ih =>
    obtain ⟨hab, hdec⟩ := List.pairwise_cons.mp hdec
    have hlt : l.length < b := ih hdec fun x hx => hpos x (List.mem_cons_of_mem a hx)
    have hba : b < a := hab b List.mem_cons_self
    simp only [List.length_cons]
    omega

/-- An engine with nothing in flight that offers nothing and is willing to accept: the state after reset (R107). -/
theorem disciplined_of_idle {s : State} (hf : s.inFlight = []) (hv : s.rspValid = false) (hr : s.reqReady = true) :
    Disciplined s := by
  simp [Disciplined, hf, hv, hr]

/-- The engine's own part of an edge brings about what the discipline says of the outputs, from a queue that keeps to
LATENCY and is in order. -/
theorem disciplined_tick {t : State} (hlen : t.inFlight.length ≤ t.latency)
    (hages : (t.inFlight.map InFlight.age).Pairwise (· > ·)) : Disciplined t.tick := by
  refine ⟨by simpa using hlen, ?_, by simp, ?_, ?_, ?_⟩
  · simpa [List.pairwise_map] using hages
  · intro hv hnil
    have hf : t.inFlight = [] := by simpa using hnil
    simp [State.tick_rspValid_nil hf] at hv
  · intro e he hdue
    cases hf : t.inFlight with
    | nil => simp [hf] at he
    | cons o rest =>
      obtain rfl : { o with age := o.age + 1 } = e := by simpa [hf] using he
      have hold : t.latency ≤ o.age + 1 := hdue
      simp [State.tick_rspValid_cons hf, hold]
  · intro hnil
    have hf : t.inFlight = [] := by simpa using hnil
    simp [State.tick_reqReady, hf]

/-- A full engine offers its oldest response. -/
theorem Disciplined.offers_of_full {s : State} (h : Disciplined s) (hpos : 0 < s.latency)
    (hfull : s.latency ≤ s.inFlight.length) : s.rspValid = true := by
  obtain ⟨-, hages, hage, -, hdue, -⟩ := h
  cases hf : s.inFlight with
  | nil => simp [hf] at hfull; omega
  | cons e rest =>
    rw [hf] at hfull hages hage
    have hold : (rest.map InFlight.age).length < e.age :=
      length_lt_head_of_decreasing (by simpa using hages) (by simpa using hage)
    simp only [List.length_cons, List.length_map] at hfull hold
    exact hdue e (by simp [hf]) (by omega)

/-- Where a request transfers there is room for it, or a response transfers on the same edge and makes room. -/
theorem Disciplined.delivers_or_room {s : State} {p : Pins} (h : Disciplined s) (hq : reqTransfers s p = true) :
    rspTransfers s p = true ∨ s.inFlight.length < s.latency := by
  by_cases hroom : s.inFlight.length < s.latency
  · exact .inr hroom
  · obtain ⟨⟨hvalid, hreq⟩, hrst⟩ : (p.reqValid = true ∧ reqReadyOut s p = true) ∧ p.rst = false := by
      simpa [reqTransfers] using hq
    have hready : p.rspReady = true := by
      by_contra hstall
      simp [reqReadyOut, hstall, hroom] at hreq
    have hoffer : rspValidOut s p = true := by
      by_cases hlat : s.latency = 0
      · simp [rspValidOut, hrst, hlat, hvalid]
      · have hv : s.rspValid = true := h.offers_of_full (by omega) (by omega)
        simp [rspValidOut, hrst, hlat, hv]
    exact .inl (by simp [rspTransfers, hoffer, hready, hrst])

/-- A request that joins the queue is younger than every one there. -/
theorem Disciplined.afterRequest_ages {s : State} (h : Disciplined s) (p : Pins) :
    ((s.afterRequest p).inFlight.map InFlight.age).Pairwise (· > ·) := by
  obtain ⟨-, hages, hage, -⟩ := h
  cases hq : reqTransfers s p
  · rwa [State.afterRequest_quiet hq]
  · rw [State.afterRequest_accepts hq, State.accept_inFlight, List.map_append, List.pairwise_append]
    exact ⟨hages, List.pairwise_singleton _ _, by simpa using show ∀ e ∈ s.inFlight, 0 < e.age from hage⟩

/-- The queue keeps to LATENCY once a request has joined it and a response has left it. -/
theorem Disciplined.delivered_length {s : State} (h : Disciplined s) (p : Pins) :
    ((s.afterRequest p).deliver (rspTransfers s p)).inFlight.length ≤ s.latency := by
  have hlen : s.inFlight.length ≤ s.latency := h.1
  cases hq : reqTransfers s p with
  | false =>
    rw [State.afterRequest_quiet hq, State.deliver_inFlight]
    split
    · rw [List.length_tail]; omega
    · exact hlen
  | true =>
    rw [State.afterRequest_accepts hq, State.deliver_inFlight, State.accept_inFlight]
    split
    · simpa using hlen
    next hrsp =>
      have hroom : s.inFlight.length < s.latency := (h.delivers_or_room hq).resolve_left hrsp
      simpa using hroom

/-- An edge without reset keeps the discipline: what its response leaves of the queue is in order and keeps to
LATENCY. -/
theorem Disciplined.kept_by_edge {s : State} (h : Disciplined s) (p : Pins) :
    Disciplined (finishEdge s p (s.afterRequest p)) := by
  apply disciplined_tick
  · simpa using h.delivered_length p
  · refine (h.afterRequest_ages p).sublist (List.Sublist.map _ ?_)
    rw [State.recordSample_inFlight, State.deliver_inFlight]
    split
    · exact List.tail_sublist _
    · exact List.Sublist.refl _

/-- The host's script is no part of the interface state. -/
theorem Disciplined.popEvent {s : State} (h : Disciplined s) : Disciplined s.popEvent := h

end Sys2Proof.Machine

open Sys2Proof.Machine in
/-- Settles O43: what drops the requests in flight leaves an idle engine, and an edge keeps the discipline by
`Disciplined.kept_by_edge`. -/
theorem everyStepKeepsTheDiscipline : Obligations.EveryStepKeepsTheDiscipline := by
  intro s t h hstep
  obtain ⟨c, rfl⟩ | ⟨p, -, -, rfl⟩ := step_drops_or_finishes hstep
  · exact disciplined_of_idle rfl rfl rfl
  · exact h.popEvent.kept_by_edge p

end

section
/-! What transfers on an edge, and what the host's reads give (spec/10_state.md R28, R31, R33), from a disciplined state. -/

namespace Sys2Proof.Machine

/-- Where `rsp_valid` is 1, `rst` is 0, and either the combinational form has a request on its ports or a response is in
flight (R31, R115). -/
theorem Disciplined.of_rspValidOut {s : State} {p : Pins} (h : Disciplined s) (hv : rspValidOut s p = true) :
    p.rst = false ∧ (s.latency = 0 ∧ s.inFlight = [] ∧ p.reqValid = true ∨
      s.latency ≠ 0 ∧ ∃ e rest, s.inFlight = e :: rest) := by
  obtain ⟨hlen, -, -, hoffer, -⟩ := h
  by_cases hlat : s.latency = 0
  · have hnil : s.inFlight = [] := List.length_eq_zero_iff.mp (by omega)
    obtain ⟨hrst, hreq⟩ : p.rst = false ∧ p.reqValid = true := by simpa [rspValidOut, hlat] using hv
    exact ⟨hrst, .inl ⟨hlat, hnil, hreq⟩⟩
  · obtain ⟨hrst, hrsp⟩ : p.rst = false ∧ s.rspValid = true := by simpa [rspValidOut, hlat] using hv
    exact ⟨hrst, .inr ⟨hlat, List.exists_cons_of_ne_nil (hoffer hrsp)⟩⟩

/-- `rsp_data` holds a value wherever `rsp_valid` is 1. -/
theorem Disciplined.rspData_isSome {s : State} {p : Pins} (h : Disciplined s) (hv : rspValidOut s p = true) :
    (rspData s p).isSome = true := by
  obtain ⟨-, ⟨hlat, -, -⟩ | ⟨hlat, e, rest, hf⟩⟩ := h.of_rspValidOut hv
  · simp [rspData, hv, hlat]
  · simp [rspData, hv, hlat, hf]

/-- What a response that transfers delivers is the value on the port, whether or not a request is accepted on the same
edge (R28, R115). -/
theorem Disciplined.delivered_eq_rspData {s : State} {p : Pins} (h : Disciplined s) (ht : rspTransfers s p = true) :
    (s.afterRequest p).inFlight.head?.map InFlight.response = rspData s p := by
  obtain ⟨⟨hv, hready⟩, hrst⟩ : (rspValidOut s p = true ∧ p.rspReady = true) ∧ p.rst = false := by
    simpa [rspTransfers] using ht
  obtain ⟨-, ⟨hlat, hnil, hreq⟩ | ⟨hlat, e, rest, hf⟩⟩ := h.of_rspValidOut hv
  · have hq : reqTransfers s p = true := by simp [reqTransfers, reqReadyOut, hrst, hready, hreq, hlat]
    simp [State.afterRequest_accepts hq, hnil, rspData, hv, hlat]
  · cases hq : reqTransfers s p
    · simp [State.afterRequest_quiet hq, rspData, hv, hlat, hf]
    · simp [State.afterRequest_accepts hq, rspData, hv, hlat, hf]

theorem reqTransfers_of_not_rst {s : State} {p : Pins} (hr : p.rst = false) :
    reqTransfers s p = (p.reqValid && reqReadyOut s p) := by
  simp [reqTransfers, hr]

theorem rspTransfers_of_not_rst {s : State} {p : Pins} (hr : p.rst = false) :
    rspTransfers s p = (rspValidOut s p && p.rspReady) := by
  simp [rspTransfers, hr]

theorem finishEdge_accepted (s : State) (p : Pins) (t : State) : (finishEdge s p t).accepted = t.accepted := rfl

theorem finishEdge_samples (s : State) (p : Pins) (t : State) :
    (finishEdge s p t).samples = if p.readsRspData then t.samples ++ (rspData s p).toList else t.samples := by
  obtain ⟨-, -, -, -, -, -, -, -, hsamples⟩ := finishEdge_fields s p t
  exact hsamples

/-- An edge without reset delivers the value on the port, if a response transfers. -/
theorem Disciplined.finishEdge_received {s : State} (h : Disciplined s) (p : Pins) :
    (finishEdge s p (s.afterRequest p)).received =
      if rspTransfers s p then s.received ++ (rspData s p).toList else s.received := by
  obtain ⟨-, -, -, -, -, -, hreceived, -⟩ := finishEdge_fields s p (s.afterRequest p)
  rw [hreceived, State.afterRequest_received]
  split
  next ht => rw [h.delivered_eq_rspData ht]
  · rfl

/-- With nothing in flight and no request there is nothing to offer. -/
theorem Disciplined.rspValidOut_idle {s : State} {p : Pins} (h : Disciplined s) (hf : s.inFlight = [])
    (hreq : p.reqValid = false) : rspValidOut s p = false := by
  by_contra hv
  have hports := h.of_rspValidOut (Bool.not_eq_false _ ▸ hv)
  simp [hf, hreq] at hports

/-- The rest of an edge on which no response transfers and nothing is read is the engine's own part. -/
theorem finishEdge_eq_tick {s t : State} {p : Pins} (hrsp : rspTransfers s p = false) (hd : p.readsRspData = false) :
    finishEdge s p t = t.tick := by
  simp [finishEdge, hrsp, hd, State.deliver, State.recordSample]

/-- A clock edge of a disciplined engine with nothing in flight is counted, and that is all. -/
theorem Disciplined.tick_idle {s : State} (h : Disciplined s) (hf : s.inFlight = []) :
    s.tick = { s with cycle := s.cycle + 1 } := by
  obtain ⟨-, -, -, hoffer, -, hidle⟩ := h
  have hv : s.rspValid = false := Bool.eq_false_iff.mpr fun hv => hoffer hv hf
  have hr : s.reqReady = true := hidle hf
  cases s
  simp_all [State.tick]

end Sys2Proof.Machine

open Sys2Proof.Machine in
/-- Settles O36: the transfers are the ports' by `State.afterRequest_accepted` and `Disciplined.finishEdge_received`. -/
theorem transfersFollowTheHandshake : Obligations.TransfersFollowTheHandshake := by
  intro s t p h he hr hstep
  obtain rfl := step_of_not_rst he hr hstep
  refine ⟨?_, h.rspData_isSome, ?_⟩
  · rw [finishEdge_accepted, State.afterRequest_accepted, reqTransfers_popEvent, reqTransfers_of_not_rst hr]
    rfl
  · rw [h.popEvent.finishEdge_received, rspTransfers_popEvent, rspTransfers_of_not_rst hr]
    rfl

open Sys2Proof.Machine in
/-- Settles O39: a clock edge completes exactly where the read in it, if there is one, is of a value. -/
theorem onlyReadsOfNoValueFault : Obligations.OnlyReadsOfNoValueFault := by
  refine ⟨fun s p he hread => ?_, fun s f hf => ?_, fun s r hs => ?_⟩
  · have faults (hnone : rspData s p = none ∨ s.received = []) : step s = .fault .rspDataHoldsNoValue := by
      rw [step_clock he]
      exact clockEdge_fault (not_readsSafely_iff.mpr ⟨hread, rspReadable_eq_false_iff.mpr hnone⟩)
    refine ⟨fun hv => faults (.inl (by simp [rspData, hv])), fun hnil => faults (.inr hnil), fun h hv hne => ?_⟩
    obtain ⟨v, hdata⟩ := Option.isSome_iff_exists.mp (h.rspData_isSome hv)
    have hsafe : p.readsSafely s.popEvent := fun _ => by simp [rspReadable, hdata, hne]
    obtain ⟨hr, -⟩ := h.of_rspValidOut hv
    refine ⟨_, v, hdata, (step_clock he).trans (clockEdge_of_not_rst hr hsafe), ?_⟩
    simp [finishEdge_samples, hread, hdata]
  · obtain ⟨t, ht⟩ | ⟨p, he, hno, -⟩ := step_completes_or_faults s
    · simp [ht] at hf
    · obtain ⟨hread, hnone⟩ := not_readsSafely_iff.mp hno
      exact ⟨p, he, hread, rspReadable_eq_false_iff.mp hnone⟩
  · obtain ⟨t, ht⟩ | ⟨p, -, -, hfault⟩ := step_completes_or_faults s
    · simp [ht] at hs
    · simp [hfault] at hs

open Sys2Proof.Machine in
/-- Settles O40: no request and no response transfers, so the edge is `State.tick` of an idle engine. -/
theorem idleEngineDoesNothing : Obligations.IdleEngineDoesNothing := by
  intro s p h hf he hr hreq hd
  have hrsp : rspTransfers s.popEvent p = false := by simp [rspTransfers, h.rspValidOut_idle hf hreq]
  have hsafe : p.readsSafely s.popEvent := by simp [Pins.readsSafely, hd]
  have hq : reqTransfers s.popEvent p = false := by simp [reqTransfers, hreq]
  rw [step_clock he, clockEdge_quiet hr hsafe hq, finishEdge_eq_tick hrsp hd, h.popEvent.tick_idle hf]
  rfl

end

section
/-! What executing a request leaves unchanged, what no step changes (spec/10_state.md R26, R108), and the state after
reset (R32, R107). -/

namespace Sys2Proof.Machine

/-- Where executing a request gives a next state, it has accepted the request. -/
theorem eq_accept_of_exec {i : Instr} {s t : State} (h : exec i s = .next t) : t = s.accept i (respond s.cfg i) := by
  rw [exec_eq] at h
  cases h
  rfl

/-- An edge without reset writes no table and not LATENCY. -/
theorem finishEdge_afterRequest_tables (s : State) (p : Pins) :
    (finishEdge s p (s.afterRequest p)).cfg = s.cfg ∧ (finishEdge s p (s.afterRequest p)).latency = s.latency :=
  ⟨s.afterRequest_cfg p, s.afterRequest_latency p⟩

@[simp] theorem lo_setWidth (x : Nibble) : lo (x.setWidth 8) = x := by
  revert x; decide

/-- Responses and requests are paired before there are any. -/
theorem paired_of_nothing {s : State} (hf : s.inFlight = []) (ha : s.accepted = []) (hr : s.received = []) :
    Paired s := by
  simp [Paired, hf, ha, hr]

end Sys2Proof.Machine

open Sys2Proof.Machine in
/-- Settles O30: a step drops requests or is an edge, and neither writes a table. -/
theorem tablesAreNeverWritten : Obligations.TablesAreNeverWritten := by
  refine ⟨fun s t hstep => ?_, fun i s t hexec => ?_, fun t x => ?_⟩
  · obtain ⟨c, rfl⟩ | ⟨p, -, -, rfl⟩ := step_drops_or_finishes hstep
    · exact ⟨rfl, rfl⟩
    · exact finishEdge_afterRequest_tables s.popEvent p
  · obtain rfl := eq_accept_of_exec hexec
    exact ⟨s.accept_cfg i _, s.accept_latency i _⟩
  · rw [lo_subByte, lo_setWidth]

open Sys2Proof.Machine in
/-- Settles O5: all that executing does is to accept the request, and `State.accept` writes two fields. -/
theorem execFrame : Obligations.ExecFrame := by
  intro i s t h
  obtain rfl := eq_accept_of_exec h
  exact ⟨rfl, rfl, rfl, rfl, rfl, rfl, rfl, rfl, rfl, s.accept_accepted i _, respond s.cfg i, s.accept_inFlight i _⟩

open Sys2Proof Sys2Proof.Machine in
/-- Settles O31: the state after reset is idle and has the installed tables. -/
theorem resetMeetsTheInvariants : Obligations.ResetMeetsTheInvariants :=
  ⟨rfl, rfl, rfl, paired_of_nothing rfl rfl rfl, disciplined_of_idle rfl rfl rfl, Config.installed_isSource⟩

end

section
/-! A step runs the instruction on the ports (spec/10_state.md R28, R29; spec/30_encoding.md R49, R53). -/

namespace Sys2Proof

/-- The fields of a REQ word, put together, are the word (R49). -/
@[simp] theorem reqWordOf_fields (w : ReqWord) : reqWordOf (selectField w) (dataField w) = w := by
  ext i hi
  simp only [reqWordOf, selectField, dataField, BitVec.getElem_or, BitVec.getElem_shiftLeft, BitVec.getElem_setWidth,
    BitVec.getLsbD_extractLsb']
  by_cases h : i < 8
  · simp [h, BitVec.getLsbD_eq_getElem hi]
  · have hle : 8 + (i - 8) = i := by omega
    have hlt : i - 8 < 2 := by omega
    simp [h, hle, hlt, BitVec.getLsbD_eq_getElem hi]

@[simp] theorem Op.select_ofSelect (op : OpSelect) : (Op.ofSelect op).select = op := by
  revert op; decide

@[simp] theorem Instr.op_ofOp (op : Op) (d : Byte) : (Instr.ofOp op d).op = op := by cases op <;> rfl

@[simp] theorem Instr.data_ofOp (op : Op) (d : Byte) : (Instr.ofOp op d).data = d := by cases op <;> rfl

/-- No bit of a REQ word is lost in decoding it (R53). -/
@[simp] theorem encode_decode (w : ReqWord) : encode (decode w) = w := by
  simp [encode, decode]

/-- What a number that the decoder reads stands for: the request of the word it is. -/
theorem eq_decode_of_decodeTableWord {nbits w : Nat} {i : Instr} (h : decodeTableWord nbits w = some i) :
    i = decode (BitVec.ofNat 10 (w % 2 ^ nbits)) := by
  unfold decodeTableWord decodeNat at h
  cases hfits : reqWordFits (w % 2 ^ nbits) <;> simp_all

namespace Machine

/-- The ports carry the request of the word that the host offers. -/
@[simp] theorem Pins.request_instr (w : ReqWord) : (Pins.request w).instr = decode w := by
  simp [Pins.instr, Pins.request]

/-- An edge on which a request transfers is its execution, with the rest of the edge around it. -/
theorem clockEdge_eq_afterExec {p : Pins} {s : State} (hr : p.rst = false) (hs : p.readsSafely s)
    (hq : reqTransfers s p = true) : clockEdge p s = afterExec s p (exec p.instr s) := by
  rw [clockEdge_accepts hr hs hq, exec_eq]
  rfl

/-- A word that the host offers to an engine willing to accept it transfers. -/
theorem reqTransfers_request {s : State} (w : ReqWord) (h : s.reqReady = true) :
    reqTransfers s (Pins.request w) = true := by
  simp [reqTransfers, reqReadyOut, Pins.request, h]

end Machine

end Sys2Proof

open Sys2Proof Sys2Proof.Machine in
/-- Settles O41: each clause is the edge with or without a transfer; of the word that `withFetchWord` places,
`reqTransfers_request` says that it transfers. -/
theorem stepRunsTheDecodedInstruction : Obligations.StepRunsTheDecodedInstruction := by
  refine ⟨?_, ?_, ?_⟩
  · rintro s p i he hr hs hvalid hready rfl -
    have hq : reqTransfers s p = true := by rw [reqTransfers_of_not_rst hr, hvalid, hready]; rfl
    rw [step_clock he]
    exact clockEdge_eq_afterExec hr hs hq
  · intro s p he hr hs hnone
    have hq : reqTransfers s p = false := by
      rw [reqTransfers_of_not_rst hr]
      exact Bool.and_eq_false_iff.mpr hnone
    rw [step_clock he]
    exact clockEdge_quiet hr hs hq
  · intro s nbits w i hw
    obtain rfl := eq_decode_of_decodeTableWord hw
    have hedge := clockEdge_eq_afterExec (s := { s with reqReady := true }) rfl (by simp [Pins.readsSafely, Pins.request])
      (reqTransfers_request (BitVec.ofNat 10 (w % 2 ^ nbits)) rfl)
    rw [Pins.request_instr] at hedge
    rw [encode_decode]
    exact hedge

end

section
/-! What the construction-time check says of the tables (spec/10_state.md R17 to R21), and that a forward table fixes
its inverse (R27). -/

namespace Sys2Proof

/-- A function with a two-sided inverse takes every value at exactly one argument. -/
theorem existsUnique_of_inverse {α : Type} {f g : α → α} (h : ∀ x, g (f x) = x ∧ f (g x) = x) (v : α) :
    ∃! x, f x = v := by
  have hbij : Function.Bijective f :=
    Function.bijective_iff_has_inverse.mpr ⟨g, fun x => (h x).1, fun x => (h x).2⟩
  exact hbij.existsUnique v

/-- The construction-time check of SBOX, in particular, finds every value (R17). -/
theorem Tables.subNibble_surjective {t : Tables} (h : t.sboxBijective = true) : Function.Surjective t.subNibble := by
  intro v
  have hone : nibbles.countP (fun x => t.subNibble x == v) = 1 :=
    beq_iff_eq.mp (List.all_eq_true.mp h v (mem_nibbles v))
  obtain ⟨x, -, hx⟩ := List.countP_pos_iff.mp (hone ▸ Nat.one_pos)
  exact ⟨x, beq_iff_eq.mp hx⟩

/-- The same of PBOX (R19). -/
theorem Tables.permPos_surjective {t : Tables} (h : t.pboxBijective = true) : Function.Surjective t.permPos := by
  intro d
  have hone : bitPositions.countP (fun j => t.permPos j == d) = 1 :=
    beq_iff_eq.mp (List.all_eq_true.mp h d (mem_bitPositions d))
  obtain ⟨j, -, hj⟩ := List.countP_pos_iff.mp (hone ▸ Nat.one_pos)
  exact ⟨j, beq_iff_eq.mp hj⟩

/-- The entry of a table at an index of just its width: the lookups of all four tables, before the width is fixed. -/
def entry {n : Nat} (r : Vector (BitVec n) (2 ^ n)) (x : BitVec n) : BitVec n := r[x.toNat]'x.isLt

theorem Tables.invSubNibble_eq_entry (t : Tables) : t.invSubNibble = entry (n := 4) t.rsbox := rfl

theorem Tables.invPermPos_eq_entry (t : Tables) : t.invPermPos = entry (n := 3) t.rpbox := rfl

@[simp] theorem entry_ofFn {n : Nat} (g : BitVec n → BitVec n) (x : BitVec n) :
    entry (Vector.ofFn fun i => g (BitVec.ofFin i)) x = g x := by
  simp only [entry, Vector.getElem_ofFn]
  rfl

/-- Tables with the same entries are the same table. -/
theorem eq_of_entry_eq {n : Nat} {r r' : Vector (BitVec n) (2 ^ n)} (h : ∀ x, entry r x = entry r' x) : r = r' :=
  Vector.ext fun i hi => h (BitVec.ofFin ⟨i, hi⟩)

/-- R27, of either pair of tables: a forward lookup that finds every value has exactly one inverse table, whose entry at
a value is the index where the forward lookup has it. -/
theorem exists_inverse_table {n : Nat} {f : BitVec n → BitVec n} (hf : Function.Surjective f) :
    ∃ r, (∀ x, entry r (f x) = x ∧ f (entry r x) = x) ∧
      (∀ r', (∀ x, entry r' (f x) = x ∧ f (entry r' x) = x) → r' = r) ∧
      ∀ v x, f x = v → entry r v = x := by
  obtain ⟨g, hgf, hfg⟩ := Function.bijective_iff_has_inverse.mp (Finite.surjective_iff_bijective.mp hf)
  refine ⟨Vector.ofFn fun i => g (BitVec.ofFin i), fun x => ?_, fun r' hr' => eq_of_entry_eq fun v => ?_, ?_⟩
  · rw [entry_ofFn, entry_ofFn]
    exact ⟨hgf x, hfg x⟩
  · rw [entry_ofFn]
    calc entry r' v = entry r' (f (g v)) := by rw [hfg v]
      _ = g v := (hr' (g v)).1
  · rintro _ x rfl
    rw [entry_ofFn]
    exact hgf x

end Sys2Proof

open Sys2Proof in
/-- Settles O26: the two inverse conditions are the check (`Tables.wf_iff_inverses`), and the unique indices follow from
them. -/
theorem wellFormedMeansInverseBijections : Obligations.WellFormedMeansInverseBijections := by
  intro t
  rw [t.wf_iff_inverses, t.rsboxInverse_iff, t.rpboxInverse_iff]
  constructor
  · rintro ⟨hs, hp⟩
    exact ⟨existsUnique_of_inverse hs, hs, existsUnique_of_inverse hp, hp⟩
  · rintro ⟨-, hs, -, hp⟩
    exact ⟨hs, hp⟩

open Sys2Proof in
/-- Settles O27: `exists_inverse_table` of the forward lookup of each pair. -/
theorem forwardTablesFixTheInverseTables : Obligations.ForwardTablesFixTheInverseTables := by
  intro t
  constructor
  · intro h
    simp only [Tables.rsboxInverse_iff, Tables.invSubNibble_eq_entry]
    exact exists_inverse_table (Tables.subNibble_surjective h)
  · intro h
    simp only [Tables.rpboxInverse_iff, Tables.invPermPos_eq_entry]
    exact exists_inverse_table (Tables.permPos_surjective h)

end

section
/-! The pairing of responses with requests (spec/20_memory.md R41, R44). What it speaks of is one list, the responses
received with those in flight behind them: a request that is accepted appends F of it, and a response that transfers
moves from one part of the list to the other and leaves the list as it is. -/

namespace Sys2Proof.Machine

/-- The responses to everything accepted since reset: those received, and behind them those in flight, oldest first. -/
def State.answers (s : State) : List Byte := s.received ++ s.inFlight.map InFlight.response

@[simp] theorem State.answers_accept (s : State) (i : Instr) (r : Byte) :
    (s.accept i r).answers = s.answers ++ [r] := by
  simp [State.answers]

/-- A response that transfers goes from the front of the queue to the end of what is received (R41). -/
@[simp] theorem State.answers_deliver (s : State) (b : Bool) : (s.deliver b).answers = s.answers := by
  cases b with
  | false => rfl
  | true => cases hf : s.inFlight <;> simp [State.answers, hf]

/-- All that follows the request on an edge changes no response and not their order. -/
theorem answers_finishEdge (s : State) (p : Pins) (t : State) : (finishEdge s p t).answers = t.answers :=
  calc (finishEdge s p t).answers
      = (t.deliver (rspTransfers s p)).answers := by simp [finishEdge, State.answers]
    _ = t.answers := t.answers_deliver _

theorem State.answers_prefix_afterRequest (s : State) (p : Pins) : s.answers <+: (s.afterRequest p).answers := by
  cases hq : reqTransfers s p
  · rw [State.afterRequest_quiet hq]
  · simp [State.afterRequest_accepts hq]

theorem State.accepted_prefix_afterRequest (s : State) (p : Pins) : s.accepted <+: (s.afterRequest p).accepted := by
  rw [State.afterRequest_accepted]
  split <;> simp

@[simp] theorem State.afterRequest_kept (s : State) (p : Pins) : (s.afterRequest p).kept = s.kept := by
  unfold State.afterRequest; split <;> rfl

theorem received_prefix_finishEdge (s : State) (p : Pins) (t : State) :
    t.received <+: (finishEdge s p t).received := by
  obtain ⟨-, -, -, -, -, -, hreceived, -⟩ := finishEdge_fields s p t
  rw [hreceived]
  split <;> simp

/-- There are as many responses, received and in flight, as accepted requests. -/
theorem Paired.length_eq {s : State} (h : Paired s) :
    s.received.length + s.inFlight.length = s.accepted.length := by
  obtain ⟨hanswers, -⟩ := h
  simpa using congrArg List.length hanswers

/-- What has been received answers the first of the accepted requests, in order (R44). -/
theorem Paired.received_prefix {s : State} (h : Paired s) : s.received <+: s.accepted.map (respond s.cfg) := by
  obtain ⟨hanswers, -⟩ := h
  exact ⟨_, hanswers⟩

/-- To accept a request with F of it keeps the pairing: it is the last on both sides. -/
theorem Paired.accept {s : State} (h : Paired s) (i : Instr) : Paired (s.accept i (respond s.cfg i)) := by
  have hlen : s.received.length ≤ s.accepted.length := by have := h.length_eq; omega
  obtain ⟨hanswers, hqueue⟩ := h
  constructor
  · simp [← List.append_assoc, hanswers]
  · simp [hqueue, List.drop_append_of_le_length hlen]

theorem Paired.afterRequest {s : State} (h : Paired s) (p : Pins) : Paired (s.afterRequest p) := by
  cases hq : reqTransfers s p
  · rwa [State.afterRequest_quiet hq]
  · rw [State.afterRequest_accepts hq]
    exact h.accept p.instr

/-- The oldest response in flight answers the next request in the order of acceptance, so to deliver it keeps the
pairing (R41). -/
theorem Paired.deliver {s : State} (h : Paired s) (b : Bool) : Paired (s.deliver b) := by
  obtain ⟨hanswers, hqueue⟩ := h
  refine ⟨(s.answers_deliver b).trans hanswers, ?_⟩
  cases b with
  | false => exact hqueue
  | true =>
    cases hf : s.inFlight with
    | nil => simpa [hf] using hqueue
    | cons e rest =>
      have hrest : rest.map InFlight.request = (s.accepted.drop s.received.length).tail := by simp [← hqueue, hf]
      simpa [hf] using hrest

/-- The rest of an edge only delivers, as far as the pairing goes: samples, ages and outputs are no part of it. -/
theorem Paired.finishEdge {t : State} (h : Paired t) (s : State) (p : Pins) : Paired (finishEdge s p t) := by
  simpa [Machine.finishEdge, Paired] using h.deliver (rspTransfers s p)

/-- The host's script is no part of the pairing. -/
theorem Paired.popEvent {s : State} (h : Paired s) : Paired s.popEvent := h

end Sys2Proof.Machine

open Sys2Proof.Machine in
/-- Settles O42: what drops the requests in flight leaves nothing to pair, and an edge without reset accepts and
delivers, which keep the pairing by `Paired.accept` and `Paired.deliver`. -/
theorem everyStepKeepsThePairing : Obligations.EveryStepKeepsThePairing := by
  intro s t h hstep
  obtain ⟨c, rfl⟩ | ⟨p, -, -, rfl⟩ := step_drops_or_finishes hstep
  · exact paired_of_nothing rfl rfl rfl
  · exact (h.popEvent.afterRequest p).finishEdge s.popEvent p

namespace Sys2Proof.Machine

/-- Every run keeps the pairing, and leaves the tables that it speaks of. -/
theorem Paired.kept_by_run {n : Nat} {s t : State} (h : Paired s) (hrun : Sys2Proof.core.run n s = .next t) :
    Paired t ∧ t.cfg = s.cfg := by
  obtain ⟨hwritten, -⟩ := tablesAreNeverWritten
  refine run_invariant (P := fun u => Paired u ∧ u.cfg = s.cfg) ?_ ⟨h, rfl⟩ hrun
  rintro u v ⟨hu, hcfg⟩ hstep
  obtain ⟨hv, -⟩ := hwritten u v hstep
  exact ⟨everyStepKeepsThePairing u v hu hstep, hv.trans hcfg⟩

/-- A response received is F of the accepted request of the same number (R44). -/
theorem Paired.answers_request {s : State} (h : Paired s) {k : Nat} {b : Byte} (hk : s.received[k]? = some b) :
    ∃ i, s.accepted[k]? = some i ∧ b = respond s.cfg i := by
  obtain ⟨hlt, rfl⟩ := List.getElem?_eq_some_iff.mp hk
  have hanswer : (s.accepted.map (respond s.cfg))[k]? = some s.received[k] :=
    List.prefix_iff_getElem?.mp h.received_prefix k hlt
  obtain ⟨i, hi, hb⟩ : ∃ i, s.accepted[k]? = some i ∧ respond s.cfg i = s.received[k] := by simpa using hanswer
  exact ⟨i, hi, hb.symm⟩

end Sys2Proof.Machine

open Sys2Proof.Machine in
/-- Settles O44: the last state of a run is paired (`Paired.kept_by_run`), and `Paired.answers_request` of a
paired state is the statement. -/
theorem kthResponseAnswersKthRequest : Obligations.KthResponseAnswersKthRequest := by
  intro n s t h hrun
  obtain ⟨ht, hcfg⟩ := h.kept_by_run hrun
  rw [← hcfg]
  exact ⟨rfl, by simpa using ht.received_prefix.length_le, fun k b hk => ht.answers_request hk⟩

open Sys2Proof.Machine in
/-- Settles O45: on an edge without reset the request appends and the rest of the edge only delivers; the count is that
of the pairing, which the edge keeps. -/
theorem nothingIsLostWithoutReset : Obligations.NothingIsLostWithoutReset := by
  intro s t p h he hr hstep
  have hcount := (everyStepKeepsThePairing s t h hstep).length_eq
  obtain rfl := step_of_not_rst he hr hstep
  refine ⟨?_, ?_, ?_, ?_, hcount⟩
  · exact s.popEvent.accepted_prefix_afterRequest p
  · simpa using received_prefix_finishEdge s.popEvent p (s.popEvent.afterRequest p)
  · exact s.popEvent.afterRequest_kept p
  · calc s.answers
        <+: (s.popEvent.afterRequest p).answers := s.popEvent.answers_prefix_afterRequest p
      _ = _ := (answers_finishEdge s.popEvent p _).symm

end

section
/-! The fields of the REQ word as numbers (spec/30_encoding.md R49), and decoding after encoding (R50, R53). -/

namespace Sys2Proof

theorem toNat_selectField (w : ReqWord) : (selectField w).toNat = w.toNat / 256 := by
  have hlt : w.toNat / 256 < 2 ^ 2 := by have := w.isLt; omega
  simpa [selectField, Nat.shiftRight_eq_div_pow] using hlt

theorem toNat_dataField (w : ReqWord) : (dataField w).toNat = w.toNat % 256 := by
  simp [dataField]

/-- The OR of R49 is a sum: the data byte lies below the shifted operation select. -/
theorem toNat_reqWordOf (op : OpSelect) (d : Byte) : (reqWordOf op d).toNat = op.toNat * 256 + d.toNat := by
  have hd : d.toNat < 2 ^ 8 := d.isLt
  have hor : op.toNat <<< 8 ||| d.toNat = op.toNat <<< 8 + d.toNat := (Nat.shiftLeft_add_eq_or_of_lt hd _).symm
  have hop := op.isLt
  have hshift : op.toNat <<< 8 < 1024 := by rw [Nat.shiftLeft_eq]; omega
  have hbyte : d.toNat % 1024 = d.toNat := Nat.mod_eq_of_lt (by omega)
  have hselect : op.toNat % 1024 = op.toNat := Nat.mod_eq_of_lt (by omega)
  rw [reqWordOf, BitVec.toNat_or, BitVec.toNat_shiftLeft, BitVec.toNat_setWidth, BitVec.toNat_setWidth]
  rw [hbyte, hselect, Nat.mod_eq_of_lt hshift, hor, Nat.shiftLeft_eq]

@[simp] theorem selectField_reqWordOf (op : OpSelect) (d : Byte) : selectField (reqWordOf op d) = op := by
  apply BitVec.eq_of_toNat_eq
  have hd := d.isLt
  rw [toNat_selectField, toNat_reqWordOf]
  omega

@[simp] theorem dataField_reqWordOf (op : OpSelect) (d : Byte) : dataField (reqWordOf op d) = d := by
  apply BitVec.eq_of_toNat_eq
  have hd := d.isLt
  rw [toNat_dataField, toNat_reqWordOf]
  omega

@[simp] theorem Op.ofSelect_select (op : Op) : Op.ofSelect op.select = op := by cases op <;> rfl

@[simp] theorem Instr.ofOp_op_data (i : Instr) : Instr.ofOp i.op i.data = i := by cases i <;> rfl

/-- The word of a request selects that request: `encode_decode` from the other side. -/
@[simp] theorem decode_encode (i : Instr) : decode (encode i) = i := by
  simp [encode, decode]

/-- A number that fits in 10 bits is read as the word it is, and no other number is (log entry 15). -/
theorem decodeNat_toNat (w : ReqWord) : decodeNat w.toNat = .ok (decode w) := by
  have hw : w.toNat < 1024 := w.isLt
  simp [decodeNat, reqWordFits, hw]

theorem decodeNat_eq_error_iff (n : Nat) : decodeNat n = .error .widerThanReqWord ↔ 1024 ≤ n := by
  by_cases h : n < 1024
  · simp [decodeNat, reqWordFits, h]
  · simp [decodeNat, reqWordFits, h, Nat.le_of_not_lt h]

/-- From 10 bits or more the decoder reads the word of a request as that request. -/
theorem decodeTableWord_encode {nbits : Nat} (h : 10 ≤ nbits) (i : Instr) :
    decodeTableWord nbits (encode i).toNat = some i := by
  have hlt : (encode i).toNat < 2 ^ nbits := Nat.lt_of_lt_of_le (encode i).isLt (Nat.pow_le_pow_right (by decide) h)
  simp [decodeTableWord, Nat.mod_eq_of_lt hlt, decodeNat_toNat]

end Sys2Proof

open Sys2Proof in
/-- Settles O19: the fields of a word and the word of two fields, by their lemmas on `toNat`. -/
theorem requestWordFields : Obligations.RequestWordFields := by
  refine ⟨fun op d => ⟨selectField_reqWordOf op d, dataField_reqWordOf op d, toNat_reqWordOf op d⟩,
    fun w => ⟨toNat_selectField w, toNat_dataField w, ?_⟩, fun i => rfl⟩
  have hw := w.isLt
  omega

open Sys2Proof in
/-- Settles O20: the table is evaluated, and so is each of its two bits, at all four values of `op`. -/
theorem operationSelectTable : Obligations.OperationSelectTable := by
  refine ⟨rfl, rfl, rfl, rfl, ?_, ?_⟩ <;> decide

/-- Settles O23: the eight words are evaluated. -/
theorem sampleWordsDecode : Obligations.SampleWordsDecode := by
  refine ⟨?_, ?_, ?_, ?_, ?_, ?_, ?_, ?_⟩ <;> decide

open Sys2Proof Sys2Proof.Machine in
/-- Settles O22: the operation is that of the field `op`, which `Op.select` gives back, and `exec_eq` completes in every
state. -/
theorem everyWordDecodesAndNoneTraps : Obligations.EveryWordDecodesAndNoneTraps := by
  intro w
  have hop : (decode w).op = Op.ofSelect (selectField w) := Instr.op_ofOp _ _
  refine ⟨⟨Op.ofSelect (selectField w), fun op' => ?_, Op.select_ofSelect _⟩, Instr.data_ofOp _ _, decodeNat_toNat w,
    fun s => ⟨_, exec_eq _ s⟩⟩
  rw [hop]
  exact eq_comm

open Sys2Proof Sys2Proof.Machine in
/-- Settles O6: each `op` value decodes to its operation, whose arm of F is the byte operation; that executing responds
with F is `exec_eq`. -/
theorem operationFunctionHasFourArms : Obligations.OperationFunctionHasFourArms := by
  refine ⟨fun cfg d => ?_, exec_eq⟩
  have hdecode (op : OpSelect) : decode (reqWordOf op d) = Instr.ofOp (Op.ofSelect op) d := by simp [decode]
  simp only [hdecode]
  exact ⟨rfl, rfl, rfl, rfl⟩

end

section
/-! The printing of a word assembles to the request of the word (spec/30_encoding.md R56, R58): a line of two words is cut
at the blank between them, the first word is a mnemonic, and the two hex digits of the second spell the data byte. -/

namespace Sys2Proof.Machine

/-- A character that the tokenizer only gathers into the word it stands in. -/
def isWordChar (c : Char) : Bool := c != ' ' && c != ',' && c != '[' && c != ']' && c != '"'

/-- The tokenizer gathers a stretch of word characters, last first. -/
theorem tokenize_word {cs : List Char} (h : cs.all isWordChar = true) (cur rest : List Char) :
    tokenize none cur (cs ++ rest) = tokenize none (cs.reverse ++ cur) rest := by
  induction cs generalizing cur with
  | nil => rfl
  | cons c cs ih =>
    obtain ⟨hc, hcs⟩ : isWordChar c = true ∧ cs.all isWordChar = true := by simpa using h
    have hgather : tokenize none cur (c :: (cs ++ rest)) = tokenize none (c :: cur) (cs ++ rest) := by
      simp only [isWordChar, Bool.and_eq_true, bne_iff_ne] at hc
      simp [tokenize, hc]
    rw [List.cons_append, hgather, ih hcs, List.reverse_cons, List.append_assoc, List.singleton_append]

theorem flushWord_reverse {cs : List Char} (h : cs ≠ []) : flushWord cs.reverse = [.word cs] := by
  obtain ⟨c, rest, hr⟩ := List.exists_cons_of_ne_nil (List.reverse_ne_nil_iff.mpr h)
  have hflush : flushWord cs.reverse = [.word cs.reverse.reverse] := by rw [hr]; rfl
  rw [hflush, List.reverse_reverse]

/-- A line of two words has the two as its tokens. -/
theorem tokens_two_words {m a : List Char} (hm : m.all isWordChar = true) (ha : a.all isWordChar = true) (hm' : m ≠ [])
    (ha' : a ≠ []) : tokens (m ++ ' ' :: a) = [.word m, .word a] := by
  have hfirst : tokens (m ++ ' ' :: a) = flushWord m.reverse ++ tokenize none [] a := by
    rw [tokens, tokenize_word hm, List.append_nil]
    rfl
  have hsecond : tokenize none [] a = flushWord a.reverse := by
    simpa [tokenize] using tokenize_word ha [] []
  rw [hfirst, hsecond, flushWord_reverse hm', flushWord_reverse ha']
  rfl

/-- A single word without `=` is the operand of an instruction line. -/
theorem parseOperand_word {cs : List Char} (h : Token.isSetting (.word cs) = false) :
    parseOperand [.word cs] = parseByte cs := by
  have hsole : soleOperand [.word cs] = .ok (.byte cs) := soleOperand_eq_ok.mpr ⟨by simpa using h, rfl⟩
  simp only [parseOperand, hsole]

@[simp] theorem parseOp_mnemonic (op : Op) : parseOp (Op.mnemonic op) = some op := by cases op <;> decide

theorem hexDigit_lowerHex (x : Nibble) : hexDigit (lowerHex x) = some x.toNat := by
  revert x; decide

/-- The printed byte, `0x` and its two digits (R58). -/
def printByte (d : Byte) : List Char := ['0', 'x', lowerHex (hi d), lowerHex (lo d)]

/-- Two hex digits spell the byte of their two nibbles. -/
theorem parseMagnitude_printByte (d : Byte) : parseMagnitude (printByte d) = some d.toNat := by
  have hvalue : (hi d).toNat * 16 + (lo d).toNat = d.toNat := by rw [← toNat_joinNibbles, joinNibbles_hi_lo]
  simp [printByte, parseMagnitude, readDigits, hexDigit_lowerHex, hvalue]

@[simp] theorem parseByte_printByte (d : Byte) : parseByte (printByte d) = .ok d := by
  have hfits : byteFits d.toNat = true := by have := d.isLt; simpa [byteFits] using this
  have hread := parseMagnitude_printByte d
  simp only [printByte] at hread ⊢
  simp [parseByte, hread, tooManyHexDigits, byteOfNat, hfits]

theorem lowerHex_isWordChar (x : Nibble) : isWordChar (lowerHex x) = true ∧ lowerHex x ≠ '=' := by
  revert x; decide

theorem printByte_isWord (d : Byte) :
    (printByte d).all isWordChar = true ∧ Token.isSetting (.word (printByte d)) = false := by
  obtain ⟨hhi, hhi'⟩ := lowerHex_isWordChar (hi d)
  obtain ⟨hlo, hlo'⟩ := lowerHex_isWordChar (lo d)
  have hlead : ['0', 'x'].all isWordChar = true := by decide
  constructor
  · simpa [printByte, hhi, hlo] using hlead
  · simp [printByte, Token.isSetting, hhi'.symm, hlo'.symm]

theorem mnemonic_isWord (op : Op) : (Op.mnemonic op).all isWordChar = true ∧ Op.mnemonic op ≠ [] := by
  cases op <;> decide

theorem disassemble_eq (w : ReqWord) :
    disassemble w = Op.mnemonic (Op.ofSelect (selectField w)) ++ ' ' :: printByte (dataField w) := by
  simp [disassemble, printByte]

/-- A line of a mnemonic and a printed byte is the request for the operation on that byte (R56). -/
theorem assemble_mnemonic_printByte (op : Op) (d : Byte) :
    assemble (Op.mnemonic op ++ ' ' :: printByte d) = .ok (Instr.ofOp op d) := by
  obtain ⟨hm, hm'⟩ := mnemonic_isWord op
  obtain ⟨ha, hset⟩ := printByte_isWord d
  rw [assemble_of_mnemonic (tokens_two_words hm ha hm' (by simp [printByte])) (parseOp_mnemonic op),
    parseOperand_word hset, parseByte_printByte]
  rfl

/-- Printing then assembling gives the request of the word (R58). -/
theorem assemble_disassemble (w : ReqWord) : assemble (disassemble w) = .ok (decode w) := by
  rw [disassemble_eq, assemble_mnemonic_printByte]
  rfl

end Sys2Proof.Machine

open Sys2Proof Sys2Proof.Machine in
/-- Settles O21: encoding and decoding are inverse on fields (`decode_encode`, `encode_decode`), and the printing of a word
assembles to what the word decodes to. -/
theorem decodeAndEncodeAgree : Obligations.DecodeAndEncodeAgree := by
  refine ⟨fun i _ => decode_encode i, encode_decode, fun i => ?_, decodeNat_eq_error_iff, fun i => ?_⟩
  · exact ⟨decodeTableWord_encode (by decide) i, decodeTableWord_encode (by decide) i⟩
  · rw [assemble_disassemble, decode_encode]

open Sys2Proof Sys2Proof.Machine in
/-- Settles O24: the printing assembles to the request of the word (`assemble_disassemble`), which `encode_decode` takes
back to the word. -/
theorem printingThenAssemblingGivesTheWordBack : Obligations.PrintingThenAssemblingGivesTheWordBack := by
  refine ⟨by decide, by decide, fun w => ⟨disassemble_eq w, decode w, assemble_disassemble w, encode_decode w⟩⟩

end

section
/-! The refusals of the assembler (spec/30_encoding.md R57): each is the sole operand's, or that of the one byte operand,
and a line passes it on. -/

namespace Sys2Proof.Machine

/-- What a sole operand is refused for, an operand of an instruction line is refused for. -/
theorem parseOperand_of_soleOperand_error {ts : List Token} {e : AsmError} (h : soleOperand ts = .error e) :
    parseOperand ts = .error e := by
  simp only [parseOperand, h]

/-- The same of the operand of a pseudo-instruction. -/
theorem parseSeqOperand_of_soleOperand_error {ts : List Token} {e : AsmError} (h : soleOperand ts = .error e) :
    parseSeqOperand ts = .error e := by
  simp only [parseSeqOperand, h]

/-- What an operand is refused for, the line of a known mnemonic is refused for. -/
theorem assemble_of_soleOperand_error {line m : List Char} {ts : List Token} {e : AsmError}
    (ht : tokens line = .word m :: ts) (hm : (parseOp m).isSome = true) (h : soleOperand ts = .error e) :
    assemble line = .error e := by
  obtain ⟨op, hop⟩ := Option.isSome_iff_exists.mp hm
  rw [assemble_of_mnemonic ht hop, parseOperand_of_soleOperand_error h]
  rfl

theorem assemblePseudo_of_soleOperand_error {line m : List Char} {ts : List Token} {e : AsmError}
    (ht : tokens line = .word m :: ts) (hm : (parsePseudoMnemonic m).isSome = true) (h : soleOperand ts = .error e) :
    assemblePseudo line = .error e := by
  obtain ⟨make, hmake⟩ := Option.isSome_iff_exists.mp hm
  rw [assemblePseudo_of_mnemonic ht hmake, parseSeqOperand_of_soleOperand_error h]
  rfl

theorem assemble_unknown {line m : List Char} {ts : List Token} (ht : tokens line = .word m :: ts)
    (hm : parseOp m = none) : assemble line = .error .unknownMnemonic := by
  simp only [assemble, ht, hm]

theorem assemblePseudo_unknown {line m : List Char} {ts : List Token} (ht : tokens line = .word m :: ts)
    (hm : parsePseudoMnemonic m = none) : assemblePseudo line = .error .unknownMnemonic := by
  simp only [assemblePseudo, ht, hm]

/-- A line of a known mnemonic and one word is refused for what the word is refused for as a byte. -/
theorem assemble_of_parseByte_error {line m cs : List Char} {e : AsmError} (ht : tokens line = [.word m, .word cs])
    (hm : (parseOp m).isSome = true) (hset : Token.isSetting (.word cs) = false) (h : parseByte cs = .error e) :
    assemble line = .error e := by
  obtain ⟨op, hop⟩ := Option.isSome_iff_exists.mp hm
  rw [assemble_of_mnemonic ht hop, parseOperand_word hset, h]
  rfl

/-- A word that begins with a minus sign spells no number without it. -/
theorem parseMagnitude_minus (ds : List Char) : parseMagnitude ('-' :: ds) = none := by
  simp [parseMagnitude, readDigits, decDigit]

/-- A number of 256 or more is refused as out of range, whatever its spelling. -/
theorem parseByte_of_large {cs : List Char} {n : Nat} (h : parseMagnitude cs = some n) (hn : 256 ≤ n) :
    parseByte cs = .error .byteOutOfRange := by
  have hfits : byteFits n = false := by simpa [byteFits] using hn
  unfold parseByte
  split
  next ds => simp [parseMagnitude_minus] at h
  next => simp [h, hfits, byteOfNat]

/-- So is a number below 0. -/
theorem parseByte_of_negative {ds : List Char} {n : Nat} (h : parseMagnitude ds = some n) (hn : 1 ≤ n) :
    parseByte ('-' :: ds) = .error .byteOutOfRange := by
  obtain ⟨k, rfl⟩ := Nat.exists_eq_add_of_le' hn
  simp [parseByte, h]

end Sys2Proof.Machine

open Sys2Proof Sys2Proof.Machine in
/-- Settles O25: a refusal of the sole operand is the line's, and so is that of a word as a byte; the five lines of L2.1
are evaluated. -/
theorem assemblerRefusesByName : Obligations.AssemblerRefusesByName := by
  refine ⟨fun line m ts ht => ⟨assemble_unknown ht, fun hm => ⟨?_, ?_, ?_, ?_⟩⟩,
    fun line m ts ht => ⟨assemblePseudo_unknown ht, fun hm => ⟨?_, ?_, ?_⟩⟩, by decide, by decide, by decide, by decide,
    by decide⟩
  · rintro rfl
    exact assemble_of_soleOperand_error ht hm rfl
  · exact fun hset => assemble_of_soleOperand_error ht hm (soleOperand_of_setting hset)
  · exact fun operand rest hset hfirst hrest =>
      assemble_of_soleOperand_error ht hm (soleOperand_of_second hset hfirst hrest)
  · rintro cs n rfl hset
    have hword : Token.isSetting (.word cs) = false := by simpa using hset
    refine ⟨fun h hn => assemble_of_parseByte_error ht hm hword (parseByte_of_large h hn), ?_⟩
    rintro ds rfl h hn
    exact assemble_of_parseByte_error ht hm hword (parseByte_of_negative h hn)
  · rintro rfl
    exact assemblePseudo_of_soleOperand_error ht hm rfl
  · exact fun hset => assemblePseudo_of_soleOperand_error ht hm (soleOperand_of_setting hset)
  · exact fun operand rest hset hfirst hrest =>
      assemblePseudo_of_soleOperand_error ht hm (soleOperand_of_second hset hfirst hrest)

end

section
/-! Runs in which the host takes every response (spec/60_exceptions.md R104): what is accepted on the way, that each
request adds its own response and nothing else, and that LATENCY cycles without a request leave nothing in flight. -/

namespace Sys2Proof.Machine

/-- A run of `m` steps and then `n` more. -/
theorem run_add {m : Nat} {s t : State} (h : Sys2Proof.core.run m s = .next t) (n : Nat) :
    Sys2Proof.core.run (m + n) s = Sys2Proof.core.run n t := by
  induction m generalizing s with
  | zero => cases h; rw [Nat.zero_add]
  | succ m ih =>
    obtain ⟨u, hu, hrest⟩ := run_succ_next h
    rw [Nat.succ_add, run_succ hu, ih hrest]

/-- `t` comes after `s` in a run on which the requests `is` are accepted, and each adds F of it to the responses (R41). -/
structure Serves (s : State) (is : List Instr) (t : State) : Prop where
  cfg : t.cfg = s.cfg
  latency : t.latency = s.latency
  accepted : t.accepted = s.accepted ++ is
  answers : t.answers = s.answers ++ is.map (respond s.cfg)

theorem Serves.refl (s : State) : Serves s [] s := ⟨rfl, rfl, by simp, by simp⟩

theorem Serves.trans {s t u : State} {is js : List Instr} (h : Serves s is t) (h' : Serves t js u) :
    Serves s (is ++ js) u where
  cfg := h'.cfg.trans h.cfg
  latency := h'.latency.trans h.latency
  accepted := by rw [h'.accepted, h.accepted, List.append_assoc]
  answers := by rw [h'.answers, h.answers, h.cfg, List.map_append, List.append_assoc]

theorem State.answers_idle {s : State} (h : s.inFlight = []) : s.answers = s.received := by
  simp [State.answers, h]

/-- The host's script is no part of what is accepted and answered. -/
theorem Serves.of_popEvent {s t : State} {is : List Instr} (h : Serves s.popEvent is t) : Serves s is t :=
  ⟨h.cfg, h.latency, h.accepted, h.answers⟩

/-- Between two idle states the responses received are those to the requests accepted. -/
theorem Serves.received {s t : State} {is : List Instr} (h : Serves s is t) (hs : s.inFlight = [])
    (ht : t.inFlight = []) : t.received = s.received ++ is.map (respond s.cfg) := by
  rw [← State.answers_idle hs, ← State.answers_idle ht, h.answers]

/-- F of the requests of a sequence, in index order, is the sequence transform (R59, R79). -/
theorem map_respond_requests (cfg : Configuration) (op : Op) (bytes : List Byte) :
    (requests op bytes).map (respond cfg) = opSeq cfg op bytes := by
  simp only [requests, opSeq, List.map_map]
  rfl

/-- The state after an edge without reset. -/
def State.afterEdge (s : State) (p : Pins) : State := finishEdge s p (s.afterRequest p)

/-- On an edge without reset the request that transfers, if one does, is accepted and answered. -/
theorem serves_afterEdge (s : State) (p : Pins) : Serves s (fetched s p).toList (s.afterEdge p) where
  cfg := s.afterRequest_cfg p
  latency := s.afterRequest_latency p
  accepted := by
    rw [State.afterEdge, finishEdge_accepted, State.afterRequest_accepted, fetched]
    split <;> simp
  answers := by
    rw [State.afterEdge, answers_finishEdge, fetched]
    cases hq : reqTransfers s p
    · simp [State.afterRequest_quiet hq]
    · simp [State.afterRequest_accepts hq]

theorem State.afterRequest_script (s : State) (p : Pins) : (s.afterRequest p).script = s.script := by
  unfold State.afterRequest; split <;> rfl

theorem Pins.takes.readsSafely {p : Pins} (h : p.takes) (s : State) : p.readsSafely s := by
  obtain ⟨-, -, hread⟩ := h
  simp [Pins.readsSafely, hread]

/-- A cycle of a host that takes responses is an edge without reset, and its event leaves the script. -/
theorem step_takes {s : State} {p : Pins} {rest : List HostEvent} (hs : s.script = .clock p :: rest) (hp : p.takes) :
    step s = .next (s.popEvent.afterEdge p) ∧ Serves s (fetched s p).toList (s.popEvent.afterEdge p) ∧
      (s.popEvent.afterEdge p).script = rest := by
  have he : s.nextEvent = .clock p := by simp [State.nextEvent, hs]
  have hscript : (s.popEvent.afterEdge p).script = s.script.tail := s.popEvent.afterRequest_script p
  exact ⟨(step_clock he).trans (clockEdge_of_not_rst hp.1 (hp.readsSafely s.popEvent)),
    (serves_afterEdge s.popEvent p).of_popEvent, by rw [hscript, hs, List.tail_cons]⟩

/-- While the host takes responses, no read faults, and whatever is accepted is answered. -/
theorem run_takes {ps : List Pins} {rest : List HostEvent} (hp : ∀ p ∈ ps, p.takes) {s : State}
    (hs : s.script = ps.map HostEvent.clock ++ rest) :
    ∃ t is, Sys2Proof.core.run ps.length s = .next t ∧ Serves s is t ∧ t.script = rest := by
  induction ps generalizing s with
  | nil => exact ⟨s, [], rfl, Serves.refl s, hs⟩
  | cons p ps ih =>
    obtain ⟨hpt, hps⟩ := List.forall_mem_cons.mp hp
    obtain ⟨hstep, hserves, hscript⟩ := step_takes hs hpt
    obtain ⟨t, is, hrun, hserves', hrest⟩ := ih hps hscript
    exact ⟨t, _, (run_succ hstep ps.length).trans hrun, hserves.trans hserves', hrest⟩

/-- What every run of a disciplined engine leaves is disciplined. -/
theorem Disciplined.kept_by_run {n : Nat} {s t : State} (h : Disciplined s)
    (hrun : Sys2Proof.core.run n s = .next t) : Disciplined t :=
  run_invariant everyStepKeepsTheDiscipline h hrun

end Sys2Proof.Machine

end

section
/-! A host that takes responses and offers nothing empties the engine within LATENCY cycles (spec/60_exceptions.md R104).
The bound counts down: with `n` cycles to go at most `n` requests are in flight, and each will be due by then. -/

namespace Sys2Proof.Machine

/-- What is in flight can leave within `n` cycles: one response a cycle, and the last of them due in time. -/
def State.DrainsWithin (s : State) (n : Nat) : Prop :=
  s.inFlight.length ≤ n ∧ ∀ e ∈ s.inFlight, s.latency < e.age + n

theorem Disciplined.drainsWithin_latency {s : State} (h : Disciplined s) : s.DrainsWithin s.latency := by
  obtain ⟨hlen, -, hage, -⟩ := h
  refine ⟨hlen, fun e he => ?_⟩
  have := hage e he
  omega

theorem State.DrainsWithin.inFlight_eq_nil {s : State} (h : s.DrainsWithin 0) : s.inFlight = [] :=
  List.eq_nil_of_length_eq_zero (Nat.le_zero.mp h.1)

/-- The first of strictly decreasing numbers exceeds a bound on all of them by as much as there are others. -/
theorem add_length_lt_head_of_decreasing {a c m : Nat} {l : List Nat} (hdec : (a :: l).Pairwise (· > ·))
    (hbound : ∀ x ∈ a :: l, c < x + m) : c + l.length < a + m := by
  induction l generalizing a with
  | nil => exact hbound a List.mem_cons_self
  | cons b l ih =>
    obtain ⟨hab, hdec⟩ := List.pairwise_cons.mp hdec
    have hlt : c + l.length < b + m := ih hdec fun x hx => hbound x (List.mem_cons_of_mem a hx)
    have hba : b < a := hab b List.mem_cons_self
    rw [List.length_cons]
    omega

/-- With as many requests in flight as cycles to go the oldest is due, so a response transfers to a host that takes it. -/
theorem Disciplined.delivers_of_full {s : State} {p : Pins} {n : Nat} (h : Disciplined s) (hp : p.takes)
    (hd : s.DrainsWithin (n + 1)) (hfull : n < s.inFlight.length) : rspTransfers s p = true := by
  obtain ⟨hlen, hages, -, -, hdue, -⟩ := h
  obtain ⟨hrst, hready, -⟩ := hp
  obtain ⟨hle, hbound⟩ := hd
  have hlat : s.latency ≠ 0 := by omega
  cases hf : s.inFlight with
  | nil => simp [hf] at hfull
  | cons e rest =>
    rw [hf] at hfull hages hbound
    have hold : s.latency + (rest.map InFlight.age).length < e.age + (n + 1) :=
      add_length_lt_head_of_decreasing (by simpa using hages) (by simpa using hbound)
    rw [List.length_cons] at hfull
    rw [List.length_map] at hold
    have hv : s.rspValid = true := hdue e (by simp [hf]) (by omega)
    simp [rspTransfers, rspValidOut, hrst, hlat, hv, hready]

theorem finishEdge_inFlight (s : State) (p : Pins) (t : State) :
    (finishEdge s p t).inFlight =
      (if rspTransfers s p then t.inFlight.tail else t.inFlight).map fun e => { e with age := e.age + 1 } := rfl

/-- A cycle without a request is one cycle less to go. -/
theorem Disciplined.drains_edge {s : State} {p : Pins} {n : Nat} (h : Disciplined s) (hp : p.takes)
    (hreq : p.reqValid = false) (hd : s.DrainsWithin (n + 1)) : (s.afterEdge p).DrainsWithin n := by
  have hq : reqTransfers s p = false := by simp [reqTransfers, hreq]
  have hqueue : (s.afterEdge p).inFlight =
      (if rspTransfers s p then s.inFlight.tail else s.inFlight).map fun e => { e with age := e.age + 1 } := by
    rw [State.afterEdge, State.afterRequest_quiet hq, finishEdge_inFlight]
  have hlat : (s.afterEdge p).latency = s.latency := (serves_afterEdge s p).latency
  have hfull := h.delivers_of_full hp hd
  obtain ⟨hle, hbound⟩ := hd
  rw [State.DrainsWithin, hqueue, hlat, List.length_map, List.forall_mem_map]
  cases hrsp : rspTransfers s p with
  | true =>
    simp only [if_true, List.length_tail]
    refine ⟨by omega, fun e he => ?_⟩
    have := hbound e (List.mem_of_mem_tail he)
    omega
  | false =>
    have hroom : ¬ n < s.inFlight.length := fun hlt => by simp [hfull hlt] at hrsp
    simp only [Bool.false_eq_true, if_false]
    refine ⟨by omega, fun e he => ?_⟩
    have := hbound e he
    omega

/-- In as many cycles without a request as the engine drains within, all that was in flight is answered. -/
theorem Disciplined.run_drains {qs : List Pins} {rest : List HostEvent}
    (hqs : ∀ q ∈ qs, q.takes ∧ q.reqValid = false) {s : State} (h : Disciplined s) (hd : s.DrainsWithin qs.length)
    (hs : s.script = qs.map HostEvent.clock ++ rest) :
    ∃ t, Sys2Proof.core.run qs.length s = .next t ∧ Serves s [] t ∧ t.inFlight = [] ∧ t.script = rest := by
  induction qs generalizing s with
  | nil => exact ⟨s, rfl, Serves.refl s, hd.inFlight_eq_nil, hs⟩
  | cons q qs ih =>
    obtain ⟨⟨hq, hreq⟩, hqs⟩ := List.forall_mem_cons.mp hqs
    obtain ⟨hstep, hserves, hscript⟩ := step_takes hs hq
    have hnone : fetched s q = none := by simp [fetched, reqTransfers, hreq]
    rw [hnone] at hserves
    obtain ⟨t, hrun, hserves', hidle, hrest⟩ :=
      ih hqs (everyStepKeepsTheDiscipline s _ h hstep) (h.popEvent.drains_edge hq hreq hd) hscript
    exact ⟨t, (run_succ hstep qs.length).trans hrun, hserves.trans hserves', hidle, hrest⟩

end Sys2Proof.Machine

open Sys2Proof.Machine in
/-- Settles O53: the run up to `t` accepts the sequence, and from the disciplined `t` the LATENCY cycles without a request
drain the engine (`Disciplined.run_drains`). -/
theorem acceptedSequenceIsAnsweredAtEveryLatency : Obligations.AcceptedSequenceIsAnsweredAtEveryLatency := by
  intro s op bytes ps qs rest h hidle hs hps hqs hlen
  obtain ⟨t, is, hrun, hserves, hscript⟩ := run_takes hps hs
  refine ⟨t, hrun, fun haccepted => ?_⟩
  obtain rfl : is = requests op bytes := List.append_cancel_left (hserves.accepted.symm.trans haccepted)
  have ht : Disciplined t := h.kept_by_run hrun
  have hdrain : t.DrainsWithin qs.length := by
    rw [hlen, ← hserves.latency]
    exact ht.drainsWithin_latency
  obtain ⟨u, hrun', hserves', hempty, hrest⟩ := ht.run_drains hqs hdrain hscript
  refine ⟨u, (run_add hrun qs.length).trans hrun', ?_, by simpa using hserves'.accepted, hempty, hrest⟩
  simpa [map_respond_requests] using (hserves.trans hserves').received hidle hempty

end

section
/-! A host that issues one request at a time, each from an idle engine and answered before the next (spec/42_sequence.md
R79): the induction over the sequence once, for both forms of the engine. -/

namespace Sys2Proof.Machine

/-- If `k` steps through the events `block i` accept and answer `i`, from every state with `P` to one with `P`, then the
blocks of a list of requests accept and answer the list. -/
theorem run_blocks {P : State → Prop} {block : Instr → List HostEvent} {k : Nat}
    (hblock : ∀ i s rest, P s → s.script = block i ++ rest →
      ∃ t, Sys2Proof.core.run k s = .next t ∧ Serves s [i] t ∧ P t ∧ t.script = rest)
    {is : List Instr} {s : State} {rest : List HostEvent} (hP : P s) (hs : s.script = is.flatMap block ++ rest) :
    ∃ t, Sys2Proof.core.run (is.length * k) s = .next t ∧ Serves s is t ∧ P t ∧ t.script = rest := by
  induction is generalizing s with
  | nil => exact ⟨s, by rw [List.length_nil, Nat.zero_mul]; rfl, Serves.refl s, hP, hs⟩
  | cons i is ih =>
    rw [List.flatMap_cons, List.append_assoc] at hs
    obtain ⟨t, hrun, hserves, hPt, hscript⟩ := hblock i s _ hP hs
    obtain ⟨u, hrun', hserves', hPu, hrest⟩ := ih hPt hscript
    refine ⟨u, ?_, hserves.trans hserves', hPu, hrest⟩
    rw [List.length_cons, Nat.succ_mul, Nat.add_comm, run_add hrun, hrun']

theorem Pins.request_takes (w : ReqWord) : (Pins.request w).takes := ⟨rfl, rfl, rfl⟩

theorem Pins.take_takes : Pins.take.takes ∧ Pins.take.reqValid = false := ⟨⟨rfl, rfl, rfl⟩, rfl⟩

/-- The request that the host offers is the one that transfers. -/
theorem fetched_request {s : State} {i : Instr} (h : reqTransfers s (Pins.request (encode i)) = true) :
    fetched s (Pins.request (encode i)) = some i := by
  simp [fetched, h]

/-- The combinational form accepts and answers the request on its ports on one edge (R115). -/
theorem combinational_request {i : Instr} {s : State} {rest : List HostEvent} (h : s.latency = 0 ∧ s.inFlight = [])
    (hs : s.script = [.clock (Pins.request (encode i))] ++ rest) :
    ∃ t, Sys2Proof.core.run 1 s = .next t ∧ Serves s [i] t ∧ (t.latency = 0 ∧ t.inFlight = []) ∧ t.script = rest := by
  obtain ⟨hlat, hidle⟩ := h
  have hq : reqTransfers s (Pins.request (encode i)) = true := by simp [reqTransfers, reqReadyOut, Pins.request, hlat]
  have hrsp : rspTransfers s (Pins.request (encode i)) = true := by simp [rspTransfers, rspValidOut, Pins.request, hlat]
  obtain ⟨hstep, hserves, hscript⟩ := step_takes hs (Pins.request_takes (encode i))
  rw [fetched_request hq] at hserves
  refine ⟨_, run_succ hstep 0, hserves, ⟨hserves.latency.trans hlat, ?_⟩, hscript⟩
  rw [State.afterEdge, finishEdge_inFlight, rspTransfers_popEvent, hrsp,
    State.afterRequest_accepts (s := s.popEvent) hq]
  simp [hidle]

/-- An idle engine, whatever its LATENCY, accepts the request on its ports, and LATENCY cycles without another bring the
response (R104, R107). -/
theorem paced_request {latency : Nat} {i : Instr} {s : State} {rest : List HostEvent}
    (h : Disciplined s ∧ s.inFlight = [] ∧ s.latency = latency)
    (hs : s.script = (.clock (Pins.request (encode i)) :: List.replicate latency (.clock Pins.take)) ++ rest) :
    ∃ t, Sys2Proof.core.run (latency + 1) s = .next t ∧ Serves s [i] t ∧
      (Disciplined t ∧ t.inFlight = [] ∧ t.latency = latency) ∧ t.script = rest := by
  obtain ⟨hdisc, hidle, rfl⟩ := h
  obtain ⟨-, -, -, -, -, hwilling⟩ := id hdisc
  have hq := reqTransfers_request (encode i) (hwilling hidle)
  obtain ⟨hstep, hserves, hscript⟩ := step_takes hs (Pins.request_takes (encode i))
  rw [fetched_request hq] at hserves
  generalize s.popEvent.afterEdge (Pins.request (encode i)) = t at hstep hserves hscript
  have ht : Disciplined t := everyStepKeepsTheDiscipline s t hdisc hstep
  have htakes : ∀ q ∈ List.replicate s.latency Pins.take, q.takes ∧ q.reqValid = false := fun q hmem => by
    rw [List.eq_of_mem_replicate hmem]
    exact Pins.take_takes
  have hdrain : t.DrainsWithin (List.replicate s.latency Pins.take).length := by
    rw [List.length_replicate, ← hserves.latency]
    exact ht.drainsWithin_latency
  obtain ⟨u, hrun, hserves', hempty, hrest⟩ := ht.run_drains htakes hdrain (by rw [List.map_replicate]; exact hscript)
  rw [List.length_replicate] at hrun
  have hserves : Serves s [i] u := hserves.trans hserves'
  exact ⟨u, (run_succ hstep s.latency).trans hrun, hserves, ⟨ht.kept_by_run hrun, hempty, hserves.latency⟩, hrest⟩

end Sys2Proof.Machine

open Sys2Proof.Machine in
/-- Settles O52: each request is a block of one edge (`combinational_request`). -/
theorem sequenceOfRequestsGivesTheSequenceTransform : Obligations.SequenceOfRequestsGivesTheSequenceTransform := by
  intro s op bytes rest hlat hidle hs
  rw [backToBack, List.map_eq_flatMap] at hs
  obtain ⟨t, hrun, hserves, ⟨-, hempty⟩, hrest⟩ := run_blocks (fun i s rest => combinational_request) ⟨hlat, hidle⟩ hs
  rw [requests, List.length_map, Nat.mul_one] at hrun
  refine ⟨t, hrun, ?_, hserves.accepted, hempty, hrest⟩
  rw [← map_respond_requests]
  exact hserves.received hidle hempty

open Sys2Proof.Machine in
/-- Settles O54: each request with its waiting cycles is a block (`paced_request`). -/
theorem pacedSequenceGivesTheSequenceTransform : Obligations.PacedSequenceGivesTheSequenceTransform := by
  intro s op bytes rest h hidle hs
  obtain ⟨t, hrun, hserves, ⟨-, hempty, -⟩, hrest⟩ := run_blocks (fun i s rest => paced_request) ⟨h, hidle, rfl⟩ hs
  rw [requests, List.length_map] at hrun
  refine ⟨t, hrun, ?_, hserves.accepted, hempty, hrest⟩
  rw [← map_respond_requests]
  exact hserves.received hidle hempty

end

section
/-! The substitution family (spec/40_substitution.md). A byte is its two nibbles, and SUB and ISUB are a lookup in each, so
what holds of the lookups, one nibble at a time, holds of the operations. -/

namespace Sys2Proof

/-- Two bytes with the same nibbles are the same. -/
theorem byte_eq_of_nibbles {a b : Byte} (hhi : hi a = hi b) (hlo : lo a = lo b) : a = b := by
  rw [← joinNibbles_hi_lo a, hhi, hlo, joinNibbles_hi_lo]

/-- The source's literal example 1, forwards. -/
theorem Configuration.subNibble_zero {c : Configuration} (h : c.isSource = true) : c.tables.subNibble 0 = 9 :=
  Configuration.nibblePerm_zero h

/-- The source's literal example 1, backwards. -/
theorem Configuration.invSubNibble_nine {c : Configuration} (h : c.isSource = true) : c.tables.invSubNibble 9 = 0 := by
  rw [← Configuration.subNibble_zero h, c.rsbox_sbox]

theorem Configuration.subNibble_injective (c : Configuration) : Function.Injective c.tables.subNibble :=
  c.nibblePerm.injective

theorem Configuration.invSubNibble_injective (c : Configuration) : Function.Injective c.tables.invSubNibble :=
  c.nibblePerm.symm.injective

/-- The configuration of two permutations, with the proof that it is well-formed (R89). -/
def Configuration.ofPerms (σ : Equiv.Perm Nibble) (π : Equiv.Perm BitPos) : Configuration :=
  ⟨Tables.ofPerms σ π, Tables.ofPerms_wf σ π⟩

theorem Configuration.ofPerms_isSource {σ : Equiv.Perm Nibble} (π : Equiv.Perm BitPos) (h : σ 0 = 9) :
    (Configuration.ofPerms σ π).isSource = true :=
  beq_iff_eq.mpr ((Tables.ofPerms_subNibble σ π 0).trans h)

namespace Machine

@[simp] theorem subByte_joinNibbles (t : Tables) (h l : Nibble) :
    subByte t (joinNibbles h l) = joinNibbles (t.subNibble h) (t.subNibble l) := by
  simp [subByte]

/-- R67, one nibble lane at a time. -/
@[simp] theorem isubByte_subByte (c : Configuration) (d : Byte) : isubByte c.tables (subByte c.tables d) = d := by
  apply byte_eq_of_nibbles
  · rw [hi_isubByte, hi_subByte, c.rsbox_sbox]
  · rw [lo_isubByte, lo_subByte, c.rsbox_sbox]

/-- R67, from the other side. -/
@[simp] theorem subByte_isubByte (c : Configuration) (d : Byte) : subByte c.tables (isubByte c.tables d) = d := by
  apply byte_eq_of_nibbles
  · rw [hi_subByte, hi_isubByte, c.sbox_rsbox]
  · rw [lo_subByte, lo_isubByte, c.sbox_rsbox]

/-- The source's literal example 2. -/
theorem subByte_zero {c : Configuration} (h : c.isSource = true) : subByte c.tables 0x00 = 0x99 := by
  have hjoin := subByte_joinNibbles c.tables 0 0
  rw [Configuration.subNibble_zero h] at hjoin
  exact hjoin

/-- A fixed point of SUB is a byte of two fixed points of SBOX. -/
theorem subByte_eq_self_iff (t : Tables) (d : Byte) :
    subByte t d = d ↔ t.subNibble (hi d) = hi d ∧ t.subNibble (lo d) = lo d := by
  constructor
  · intro h
    exact ⟨by rw [← hi_subByte, h], by rw [← lo_subByte, h]⟩
  · rintro ⟨hhi, hlo⟩
    exact byte_eq_of_nibbles ((hi_subByte t d).trans hhi) ((lo_subByte t d).trans hlo)

/-- The SBOX that exchanges 0x0 and 0x9 and fixes the other nibbles: a source's table with fixed points. -/
theorem exists_source_with_fixed_point :
    ∃ c : Configuration, c.isSource = true ∧ ∃ d, subByte c.tables d = d := by
  have hfix : Equiv.swap (0 : Nibble) 9 1 = 1 := by decide
  refine ⟨.ofPerms (Equiv.swap 0 9) (Equiv.refl BitPos), Configuration.ofPerms_isSource _ (Equiv.swap_apply_left 0 9),
    0x11, (subByte_eq_self_iff _ _).mpr ⟨?_, ?_⟩⟩
  · exact (Tables.ofPerms_subNibble _ _ 1).trans hfix
  · exact (Tables.ofPerms_subNibble _ _ 1).trans hfix

/-- The SBOX that adds 0x9 to every nibble: a source's table without a fixed point. -/
theorem exists_source_without_fixed_point :
    ∃ c : Configuration, c.isSource = true ∧ ∀ d, subByte c.tables d ≠ d := by
  refine ⟨.ofPerms (Equiv.addRight 9) (Equiv.refl BitPos), Configuration.ofPerms_isSource _ rfl, fun d hd => ?_⟩
  obtain ⟨hhi, -⟩ := (subByte_eq_self_iff _ d).mp hd
  have hadd : hi d + 9 = hi d := (Tables.ofPerms_subNibble _ _ (hi d)).symm.trans hhi
  exact absurd (left_eq_add.mp hadd.symm) (by decide)

end Machine

end Sys2Proof

open Sys2Proof Sys2Proof.Machine in
/-- Settles O1: `exec_eq` accepts the request with the lookups of its two nibbles, and the corner cases are those of a
lookup in each lane. -/
theorem subRespondsWithSboxOfBothNibbles : Obligations.SubRespondsWithSboxOfBothNibbles := by
  refine ⟨fun s d => exec_eq (.sub d) s, fun d => (Laws.TableRow.sub d).1, fun c => subByte_zero, fun t d h => ?_,
    fun t d e => ⟨fun h => ?_, fun h => ?_⟩, exists_source_with_fixed_point, exists_source_without_fixed_point⟩
  · exact ⟨hi_subByte t d, by rw [lo_subByte, h]⟩
  · rw [hi_subByte, hi_subByte, h]
  · rw [lo_subByte, lo_subByte, h]

open Sys2Proof Sys2Proof.Machine in
/-- Settles O2: as O1, with RSBOX; the two corner cases with values undo what SUB gives. -/
theorem isubRespondsWithRsboxOfBothNibbles : Obligations.IsubRespondsWithRsboxOfBothNibbles := by
  refine ⟨fun s d => exec_eq (.isub d) s, fun d => (Laws.TableRow.isub d).1, fun c h => ?_, fun c x hx => ?_,
    fun t d e => ⟨fun h => ?_, fun h => ?_⟩⟩
  · rw [← subByte_zero h, isubByte_subByte]
  · have hsub : subByte c.tables (joinNibbles x x) = 0x00 := by rw [subByte_joinNibbles, hx]; rfl
    rw [← hsub, isubByte_subByte]
  · rw [hi_isubByte, hi_isubByte, h]
  · rw [lo_isubByte, lo_isubByte, h]

open Sys2Proof.Machine in
/-- Settles O10: the lookups of a well-formed configuration undo each other in both lanes. -/
theorem subAndIsubUndoEachOther : Obligations.SubAndIsubUndoEachOther :=
  fun c d => ⟨isubByte_subByte c d, subByte_isubByte c d⟩

open Sys2Proof Sys2Proof.Machine in
/-- Settles O11: each operation has the other as its inverse, and a change to one nibble shows because the lookup of that
lane is injective. -/
theorem substitutionIsTwoIndependentBijectiveLanes : Obligations.SubstitutionIsTwoIndependentBijectiveLanes := by
  intro c
  refine ⟨?_, ?_, fun d => ⟨hi_subByte _ d, lo_subByte _ d⟩, fun d => ⟨hi_isubByte _ d, lo_isubByte _ d⟩,
    fun d e hlo hhi => ⟨⟨?_, ?_⟩, ?_, ?_⟩⟩
  · exact Function.bijective_iff_has_inverse.mpr ⟨isubByte c.tables, isubByte_subByte c, subByte_isubByte c⟩
  · exact Function.bijective_iff_has_inverse.mpr ⟨subByte c.tables, subByte_isubByte c, isubByte_subByte c⟩
  · rw [lo_subByte, lo_subByte, hlo]
  · rw [hi_subByte, hi_subByte]
    exact c.subNibble_injective.ne hhi
  · rw [lo_isubByte, lo_isubByte, hlo]
  · rw [hi_isubByte, hi_isubByte]
    exact c.invSubNibble_injective.ne hhi

open Sys2Proof in
/-- Settles O9: the byte operations are defined by their lanes; the rest is the inverse condition, and what it gives at
`SBOX[0] = 0x9`. -/
theorem nibbleLookupsInBothLanes : Obligations.NibbleLookupsInBothLanes :=
  ⟨fun _ _ => ⟨rfl, rfl⟩, Configuration.rsbox_sbox,
    fun _ h => ⟨Configuration.subNibble_zero h, Configuration.invSubNibble_nine h⟩⟩

end

section
/-! The OR of a substituted byte combines no two 1 bits (spec/40_substitution.md R70): its two parts lie in different
halves of the byte. -/

namespace Sys2Proof

/-- The OR of words without a common 1 bit is their XOR. -/
theorem or_eq_xor_of_and_eq_zero {w : Nat} {x y : BitVec w} (h : x &&& y = 0#w) : x ||| y = x ^^^ y := by
  ext i hi
  have hbit : (x[i] && y[i]) = false := by rw [← BitVec.getElem_and, h, BitVec.getElem_zero]
  rw [BitVec.getElem_or, BitVec.getElem_xor]
  revert hbit
  cases x[i] <;> cases y[i] <;> decide

/-- A nibble shifted by 4 has 1 bits only in [7:4]. -/
theorem shifted_and_lowMask (h : Nibble) : (h.setWidth 8 <<< 4) &&& 0x0F#8 = 0#8 := by
  revert h; decide

/-- A nibble as a byte has 1 bits only in [3:0]. -/
theorem setWidth_and_highMask (l : Nibble) : l.setWidth 8 &&& 0xF0#8 = 0#8 := by
  revert l; decide

theorem setWidth_and_lowMask (l : Nibble) : 0x0F#8 &&& l.setWidth 8 = l.setWidth 8 := by
  revert l; decide

/-- The two parts of a byte of two nibbles share no 1 bit: the mask of the low part clears the high one. -/
theorem shifted_and_setWidth (h l : Nibble) : (h.setWidth 8 <<< 4) &&& l.setWidth 8 = 0#8 := by
  rw [← setWidth_and_lowMask l, ← BitVec.and_assoc, shifted_and_lowMask, BitVec.zero_and]

end Sys2Proof

open Sys2Proof in
/-- Settles O12: the two parts share no 1 bit (`shifted_and_setWidth`), so their OR is their sum and their XOR. -/
theorem substitutedNibblesNeverOverlap : Obligations.SubstitutedNibblesNeverOverlap := by
  intro t d high low
  have hdisjoint : high &&& low = 0#8 := shifted_and_setWidth _ _
  have hsum : high + low = high ||| low := BitVec.add_eq_or_of_and_eq_zero high low hdisjoint
  refine ⟨shifted_and_lowMask _, setWidth_and_highMask _, hdisjoint, rfl, hsum.symm,
    or_eq_xor_of_and_eq_zero hdisjoint, ?_⟩
  rw [← BitVec.toNat_add_of_and_eq_zero hdisjoint]
  exact (high + low).isLt

end

section
/-! Each operation reads one table (spec/40_substitution.md R69, spec/41_permutation.md R78): the lookup that it is defined
by is the lookup in that table. -/

namespace Sys2Proof

theorem Tables.subNibble_congr {t u : Tables} (h : t.sbox = u.sbox) : t.subNibble = u.subNibble := by
  funext x
  simp only [Tables.subNibble, h]

theorem Tables.invSubNibble_congr {t u : Tables} (h : t.rsbox = u.rsbox) : t.invSubNibble = u.invSubNibble := by
  funext x
  simp only [Tables.invSubNibble, h]

theorem Tables.permPos_congr {t u : Tables} (h : t.pbox = u.pbox) : t.permPos = u.permPos := by
  funext j
  simp only [Tables.permPos, h]

theorem Tables.invPermPos_congr {t u : Tables} (h : t.rpbox = u.rpbox) : t.invPermPos = u.invPermPos := by
  funext j
  simp only [Tables.invPermPos, h]

end Sys2Proof

open Sys2Proof Sys2Proof.Machine in
/-- Settles O13: tables that agree on the table named have the same lookup in it, and the operation is defined by that
lookup. -/
theorem operationsReadOnlyTheirOwnTable : Obligations.OperationsReadOnlyTheirOwnTable := by
  refine fun t u d => ⟨fun h => ?_, fun h => ?_, fun h => ?_, fun h => ?_⟩
  · rw [subByte, subByte, Tables.subNibble_congr h]
  · rw [isubByte, isubByte, Tables.invSubNibble_congr h]
  · rw [permByte, permByte, Tables.permPos_congr h]
  · rw [ipermByte, ipermByte, Tables.invPermPos_congr h]

end

section
/-! The permutation family (spec/41_permutation.md). PBOX and RPBOX of a well-formed configuration are a permutation of the
bit positions and its inverse, so PERM and IPERM are the loop of R71 over a permutation, and one lemma serves both. Bit `k` of
its result is one bit of the operand (`bitSet_moveBits_perm`); two bytes are compared bit by bit. -/

namespace Sys2Proof

@[simp] theorem bitSet_allOnes (k : BitPos) : bitSet 255#8 k = true := by
  revert k; decide

/-- The permutation of the bit positions may be applied to the positions counted. -/
theorem countP_comp_perm (p : BitPos → Bool) (π : Equiv.Perm BitPos) :
    bitPositions.countP (p ∘ π) = bitPositions.countP p := by
  have hperm : (bitPositions.map π).Perm bitPositions := by
    refine (List.perm_ext_iff_of_nodup (nodup_bitPositions.map π.injective) nodup_bitPositions).mpr fun k => ?_
    exact iff_of_true (List.mem_map.mpr ⟨π.symm k, mem_bitPositions _, π.apply_symm_apply k⟩) (mem_bitPositions k)
  rw [← List.countP_map, hperm.countP_eq]

/-- Each position is the destination of exactly one turn of the loop (R19, R77). -/
theorem countP_perm_eq_one (π : Equiv.Perm BitPos) (k : BitPos) :
    bitPositions.countP (fun j => π j == k) = 1 :=
  countP_eq_one_of_inverse mem_bitPositions nodup_bitPositions π.symm_apply_apply π.apply_symm_apply k

/-- An identity PBOX has an identity RPBOX. -/
theorem Configuration.bitPerm_eq_refl {c : Configuration} (h : ∀ j, c.tables.permPos j = j) :
    c.bitPerm = Equiv.refl BitPos :=
  Equiv.ext h

namespace Machine

theorem permByte_eq_moveBits (c : Configuration) : permByte c.tables = moveBits c.bitPerm := rfl

theorem ipermByte_eq_moveBits (c : Configuration) : ipermByte c.tables = moveBits c.bitPerm.symm := rfl

/-- The turns of the loop may be taken in any order, since OR commutes; the destinations may even coincide (R71, R77). -/
theorem foldl_move_of_perm (dest : BitPos → BitPos) (d : Byte) {order : List BitPos} (h : order.Perm bitPositions) :
    order.foldl (fun out j => out ||| (bitAt d j <<< (dest j).toNat)) 0 = moveBits dest d := by
  refine h.foldl_eq' (fun i _ j _ out => ?_) 0
  rw [BitVec.or_assoc, BitVec.or_assoc, BitVec.or_comm (bitAt d i <<< _)]

/-- Where the destinations are a permutation, bit `k` of the result is the one bit that moved there (R72, R74). -/
@[simp] theorem bitSet_moveBits_perm (π : Equiv.Perm BitPos) (d : Byte) (k : BitPos) :
    bitSet (moveBits π d) k = bitSet d (π.symm k) := by
  rw [bitSet_moveBits, Bool.eq_iff_iff]
  simp only [List.any_eq_true, Bool.and_eq_true, decide_eq_true_eq]
  constructor
  · rintro ⟨j, -, rfl, hj⟩
    rwa [π.symm_apply_apply]
  · exact fun hk => ⟨π.symm k, mem_bitPositions _, π.apply_symm_apply k, hk⟩

/-- Bit `j` goes to position `π j` (R72, R74). -/
theorem bitSet_moveBits_dest (π : Equiv.Perm BitPos) (d : Byte) (j : BitPos) :
    bitSet (moveBits π d) (π j) = bitSet d j := by
  rw [bitSet_moveBits_perm, π.symm_apply_apply]

/-- Moving along a permutation and then along its inverse leaves every bit where it was (R75). -/
theorem moveBits_symm_moveBits (π : Equiv.Perm BitPos) (d : Byte) : moveBits π.symm (moveBits π d) = d := by
  apply byte_ext
  intro k
  rw [bitSet_moveBits_perm, π.symm_symm, bitSet_moveBits_dest]

theorem moveBits_refl (d : Byte) : moveBits (Equiv.refl BitPos) d = d :=
  byte_ext fun k => bitSet_moveBits_perm _ d k

/-! R76: the laws of a function that moves bits without changing them, for every permutation of the bit positions.
The laws of whole bytes hold because they hold of each bit. -/

theorem popcount_moveBits (π : Equiv.Perm BitPos) (d : Byte) : popcount (moveBits π d) = popcount d := by
  have hbits : bitSet (moveBits π d) = bitSet d ∘ π.symm := funext (bitSet_moveBits_perm π d)
  unfold popcount
  rw [hbits, countP_comp_perm]

theorem moveBits_zero (π : Equiv.Perm BitPos) : moveBits π 0x00 = 0x00 := by
  apply byte_ext
  simp

theorem moveBits_allOnes (π : Equiv.Perm BitPos) : moveBits π 0xFF = 0xFF := by
  apply byte_ext
  simp

theorem moveBits_oneBit (π : Equiv.Perm BitPos) (j : BitPos) : moveBits π (oneBit j) = oneBit (π j) := by
  apply byte_ext
  intro k
  simp [Equiv.eq_symm_apply]

theorem moveBits_xor (π : Equiv.Perm BitPos) (a b : Byte) : moveBits π (a ^^^ b) = moveBits π a ^^^ moveBits π b := by
  apply byte_ext
  simp

theorem moveBits_and (π : Equiv.Perm BitPos) (a b : Byte) : moveBits π (a &&& b) = moveBits π a &&& moveBits π b := by
  apply byte_ext
  simp

theorem moveBits_or (π : Equiv.Perm BitPos) (a b : Byte) : moveBits π (a ||| b) = moveBits π a ||| moveBits π b := by
  apply byte_ext
  simp

/-- The mask 0xFF of R76 leaves the complement of a byte as it is, and moves to itself. -/
theorem moveBits_not (π : Equiv.Perm BitPos) (a : Byte) : moveBits π (~~~a &&& 0xFF) = ~~~(moveBits π a) &&& 0xFF := by
  apply byte_ext
  simp

/-- R76 of an operation `f` that moves bit `j` to position `dest j`. -/
def MovesBitsUnchanged (dest : BitPos → BitPos) (f : Byte → Byte) : Prop :=
  (∀ d, popcount (f d) = popcount d) ∧ f 0x00 = 0x00 ∧ f 0xFF = 0xFF ∧ (∀ j, f (oneBit j) = oneBit (dest j)) ∧
  (∀ a b, f (a ^^^ b) = f a ^^^ f b ∧ f (a &&& b) = f a &&& f b ∧ f (a ||| b) = f a ||| f b) ∧
  (∀ a, f (~~~a &&& 0xFF) = ~~~(f a) &&& 0xFF)

theorem moveBits_movesBitsUnchanged (π : Equiv.Perm BitPos) : MovesBitsUnchanged π (moveBits π) :=
  ⟨popcount_moveBits π, moveBits_zero π, moveBits_allOnes π, moveBits_oneBit π,
    fun a b => ⟨moveBits_xor π a b, moveBits_and π a b, moveBits_or π a b⟩, moveBits_not π⟩

/-- R77 of an operation `f` whose turn `j` writes bit `dest j`. -/
def TurnsWriteOwnBits (dest : BitPos → BitPos) (f : Byte → Byte) : Prop :=
  (∀ j j', j ≠ j' → dest j ≠ dest j') ∧ (∀ k, bitPositions.countP (fun j => dest j == k) = 1) ∧
  (∀ (d : Byte) (order : List BitPos), order.Perm bitPositions →
    order.foldl (fun out j => out ||| (bitAt d j <<< (dest j).toNat)) 0 = f d) ∧
  (∀ d j, bitSet (f d) (dest j) = bitSet d j)

theorem moveBits_turnsWriteOwnBits (π : Equiv.Perm BitPos) : TurnsWriteOwnBits π (moveBits π) :=
  ⟨fun _ _ => π.injective.ne, countP_perm_eq_one π, fun d _ => foldl_move_of_perm π d, bitSet_moveBits_dest π⟩

end Machine

end Sys2Proof

open Sys2Proof Sys2Proof.Machine in
/-- Settles O14: bit `j` goes to `PBOX[j]`, and the bit at `k` came from `RPBOX[k]`, the inverse permutation. -/
theorem permBitByBit : Obligations.PermBitByBit := by
  intro c d
  rw [permByte_eq_moveBits]
  exact ⟨bitSet_moveBits_dest c.bitPerm d, bitSet_moveBits_perm c.bitPerm d⟩

open Sys2Proof Sys2Proof.Machine in
/-- Settles O15: as O14, along the inverse permutation, whose inverse is PBOX. -/
theorem ipermBitByBit : Obligations.IpermBitByBit := by
  intro c d
  rw [ipermByte_eq_moveBits]
  exact ⟨bitSet_moveBits_dest c.bitPerm.symm d, bitSet_moveBits_perm c.bitPerm.symm d⟩

open Sys2Proof Sys2Proof.Machine in
/-- Settles O16: PERM and IPERM move bits along a permutation and its inverse. -/
theorem permAndIpermUndoEachOther : Obligations.PermAndIpermUndoEachOther := by
  intro c d
  rw [permByte_eq_moveBits, ipermByte_eq_moveBits]
  exact ⟨moveBits_symm_moveBits c.bitPerm d, moveBits_symm_moveBits c.bitPerm.symm d⟩

open Sys2Proof Sys2Proof.Machine in
/-- Settles O17: the laws of `moveBits`, along the permutation and along its inverse. -/
theorem permutationMovesBitsUnchanged : Obligations.PermutationMovesBitsUnchanged := by
  intro c
  rw [permByte_eq_moveBits, ipermByte_eq_moveBits]
  exact ⟨moveBits_movesBitsUnchanged c.bitPerm, moveBits_movesBitsUnchanged c.bitPerm.symm⟩

open Sys2Proof Sys2Proof.Machine in
/-- Settles O18: a permutation is injective and takes each value once, and the order of the turns is free whatever the
destinations are. -/
theorem eachTurnWritesItsOwnBit : Obligations.EachTurnWritesItsOwnBit := by
  intro c
  rw [permByte_eq_moveBits, ipermByte_eq_moveBits]
  exact ⟨moveBits_turnsWriteOwnBits c.bitPerm, moveBits_turnsWriteOwnBits c.bitPerm.symm⟩

open Sys2Proof Sys2Proof.Machine in
/-- Settles O3: `exec_eq` accepts the request with the loop over PBOX, and the corner cases are those of `moveBits`. The
identity and the order of the turns need no well-formed tables. -/
theorem permRespondsWithBitsMovedByPbox : Obligations.PermRespondsWithBitsMovedByPbox := by
  refine ⟨fun s d => exec_eq (.perm d) s, fun d => (Laws.TableRow.perm d).1,
    fun c => ⟨moveBits_zero c.bitPerm, moveBits_allOnes c.bitPerm⟩, fun c => moveBits_oneBit c.bitPerm,
    fun t d h => ?_, fun t d _ => foldl_move_of_perm t.permPos d⟩
  have hid : t.permPos = Equiv.refl BitPos := funext h
  rw [permByte, hid, moveBits_refl]

open Sys2Proof Sys2Proof.Machine in
/-- Settles O4: as O3, along the inverse permutation; the inverse of the identity is the identity. -/
theorem ipermRespondsWithBitsMovedByRpbox : Obligations.IpermRespondsWithBitsMovedByRpbox := by
  refine ⟨fun s d => exec_eq (.iperm d) s, fun d => (Laws.TableRow.iperm d).1,
    fun c => ⟨moveBits_zero c.bitPerm.symm, moveBits_allOnes c.bitPerm.symm⟩, fun c => moveBits_oneBit c.bitPerm.symm,
    fun c d h => ⟨fun j => ?_, ?_⟩⟩
  · change c.bitPerm.symm j = j
    rw [Configuration.bitPerm_eq_refl h, Equiv.refl_symm, Equiv.refl_apply]
  · rw [ipermByte_eq_moveBits, Configuration.bitPerm_eq_refl h, Equiv.refl_symm, moveBits_refl]

end

section
/-! Sequences and the pipelines (spec/42_sequence.md). A sequence transform is its byte operation on every element, and a
pipeline is two of them, so each law of sequences here is a law of bytes; `Sys2Proof.Machine.wrongRev_fwd_eq_self_iff` says
which one order sensitivity is. -/

namespace Sys2Proof.Machine

/-- R75, PERM first. -/
@[simp] theorem ipermByte_permByte (c : Configuration) (d : Byte) : ipermByte c.tables (permByte c.tables d) = d :=
  (permAndIpermUndoEachOther c d).1

/-- R75, IPERM first. -/
@[simp] theorem permByte_ipermByte (c : Configuration) (d : Byte) : permByte c.tables (ipermByte c.tables d) = d :=
  (permAndIpermUndoEachOther c d).2

/-- Under an identity PBOX, PERM leaves every byte as it is (R71). -/
theorem permByte_of_identity {c : Configuration} (h : ∀ j, c.tables.permPos j = j) (d : Byte) :
    permByte c.tables d = d := by
  rw [permByte_eq_moveBits, Configuration.bitPerm_eq_refl h, moveBits_refl]

/-- The permutation a configuration is made of is the one PERM moves bits along. -/
theorem permByte_ofPerms (σ : Equiv.Perm Nibble) (π : Equiv.Perm BitPos) (d : Byte) :
    permByte (Configuration.ofPerms σ π).tables d = moveBits π d := by
  have hbits : (Configuration.ofPerms σ π).bitPerm = π := Equiv.ext (Tables.ofPerms_permPos σ π)
  rw [permByte_eq_moveBits, hbits]

/-- A sequence transform undoes another where its byte operation undoes the other's (R79). -/
theorem opSeq_opSeq_of_inverse {c : Configuration} (op op' : Op)
    (h : ∀ d, opByte c op' (opByte c op d) = d) (bytes : List Byte) : opSeq c op' (opSeq c op bytes) = bytes := by
  have hid : opByte c op' ∘ opByte c op = id := funext h
  rw [opSeq, opSeq, List.map_map, hid, List.map_id]

/-! R82, one pair at a time. -/

@[simp] theorem opSeq_isub_sub (c : Configuration) (bytes : List Byte) : opSeq c .isub (opSeq c .sub bytes) = bytes :=
  opSeq_opSeq_of_inverse .sub .isub (isubByte_subByte c) bytes
@[simp] theorem opSeq_sub_isub (c : Configuration) (bytes : List Byte) : opSeq c .sub (opSeq c .isub bytes) = bytes :=
  opSeq_opSeq_of_inverse .isub .sub (subByte_isubByte c) bytes
@[simp] theorem opSeq_iperm_perm (c : Configuration) (bytes : List Byte) : opSeq c .iperm (opSeq c .perm bytes) = bytes :=
  opSeq_opSeq_of_inverse .perm .iperm (ipermByte_permByte c) bytes
@[simp] theorem opSeq_perm_iperm (c : Configuration) (bytes : List Byte) : opSeq c .perm (opSeq c .iperm bytes) = bytes :=
  opSeq_opSeq_of_inverse .iperm .perm (permByte_ipermByte c) bytes

/-- R84: IPERM undoes the last stage of FWD, and then ISUB the first. -/
theorem rev_fwd (c : Configuration) (bytes : List Byte) : rev c (fwd c bytes) = bytes := by
  rw [rev, fwd, opSeq_iperm_perm, opSeq_isub_sub]

/-- R84, from the other side. -/
theorem fwd_rev (c : Configuration) (bytes : List Byte) : fwd c (rev c bytes) = bytes := by
  rw [fwd, rev, opSeq_sub_isub, opSeq_perm_iperm]

/-- R83, element by element. -/
theorem fwd_eq_map (c : Configuration) (bytes : List Byte) :
    fwd c bytes = bytes.map fun b => permByte c.tables (subByte c.tables b) :=
  List.map_map

/-- What the wrong-order reverse makes of a byte of FWD is the byte itself exactly where SUB and PERM commute on it. -/
theorem wrong_order_byte_eq_self_iff (c : Configuration) (b : Byte) :
    ipermByte c.tables (isubByte c.tables (permByte c.tables (subByte c.tables b))) = b ↔
      permByte c.tables (subByte c.tables b) = subByte c.tables (permByte c.tables b) := by
  constructor
  · intro h
    rw [← congrArg (permByte c.tables) h, permByte_ipermByte, subByte_isubByte]
  · intro h
    rw [h, isubByte_subByte, ipermByte_permByte]

/-- R85: the wrong order recovers exactly the sequences on whose bytes SUB and PERM commute. -/
theorem wrongRev_fwd_eq_self_iff (c : Configuration) (bytes : List Byte) :
    wrongRev c (fwd c bytes) = bytes ↔
      ∀ b ∈ bytes, permByte c.tables (subByte c.tables b) = subByte c.tables (permByte c.tables b) := by
  have hmap : wrongRev c (fwd c bytes) =
      bytes.map fun b => ipermByte c.tables (isubByte c.tables (permByte c.tables (subByte c.tables b))) := by
    rw [fwd_eq_map, wrongRev, opSeq, opSeq, List.map_map, List.map_map]
    rfl
  nth_rw 2 [← List.map_id bytes]
  rw [hmap, List.map_inj_left]
  exact forall₂_congr fun b _ => wrong_order_byte_eq_self_iff c b

/-- ORDER_SENSITIVE (R85) is that the wrong order does not recover the sequence of literal example 3. -/
theorem orderSensitive_iff (c : Configuration) : orderSensitive c = true ↔ wrongRev c (fwd c hello) ≠ hello :=
  bne_iff_ne

/-- R85: with an identity PBOX the wrong order recovers every sequence, since there SUB and PERM commute. -/
theorem wrongRev_fwd_of_identity {c : Configuration} (h : ∀ j, c.tables.permPos j = j) (bytes : List Byte) :
    wrongRev c (fwd c bytes) = bytes :=
  (wrongRev_fwd_eq_self_iff c bytes).mpr fun b _ => by rw [permByte_of_identity h, permByte_of_identity h]

/-- A source's tables that exchange nibbles 0x0 and 0x9, and bits 0 and 4. -/
def exchanging : Configuration := .ofPerms (Equiv.swap 0 9) (Equiv.swap 0 4)

theorem subByte_exchanging_blank : subByte exchanging.tables 0x20 = 0x29 := by
  apply byte_eq_of_nibbles
  · exact (hi_subByte _ _).trans ((Tables.ofPerms_subNibble _ _ 2).trans (by decide))
  · exact (lo_subByte _ _).trans ((Tables.ofPerms_subNibble _ _ 0).trans (Equiv.swap_apply_left 0 9))

theorem permByte_exchanging (d : Byte) : permByte exchanging.tables d = moveBits (Equiv.swap 0 4) d :=
  permByte_ofPerms _ _ d

theorem permByte_exchanging_blank : permByte exchanging.tables 0x20 = 0x20 := by
  have hfix : Equiv.swap (0 : BitPos) 4 5 = 5 := by decide
  have hmove := moveBits_oneBit (Equiv.swap 0 4) 5
  rw [hfix] at hmove
  exact (permByte_exchanging _).trans hmove

/-- Bit 0 of 0x29 is 1 and moves to position 4, where 0x29 has a 0. -/
theorem permByte_exchanging_ne : permByte exchanging.tables 0x29 ≠ 0x29 := by
  intro h
  have hdest := bitSet_moveBits_dest (Equiv.swap 0 4) 0x29 0
  rw [← permByte_exchanging, h, Equiv.swap_apply_left] at hdest
  exact absurd hdest (by decide)

/-- On the blank of example 3, 0x20, SUB and PERM do not commute: PERM leaves it as it is, but not what SUB makes of it. -/
theorem exists_source_order_sensitive : ∃ c : Configuration, c.isSource = true ∧ orderSensitive c = true := by
  refine ⟨exchanging, Configuration.ofPerms_isSource _ (Equiv.swap_apply_left 0 9), (orderSensitive_iff _).mpr fun h => ?_⟩
  have hcommute := (wrongRev_fwd_eq_self_iff _ _).mp h 0x20 (by decide)
  rw [permByte_exchanging_blank, subByte_exchanging_blank] at hcommute
  exact permByte_exchanging_ne hcommute

/-- The same SBOX with an identity PBOX. -/
theorem exists_source_not_order_sensitive : ∃ c : Configuration, c.isSource = true ∧ orderSensitive c = false := by
  refine ⟨.ofPerms (Equiv.swap 0 9) (Equiv.refl BitPos), Configuration.ofPerms_isSource _ (Equiv.swap_apply_left 0 9), ?_⟩
  rw [Bool.eq_false_iff, Ne, orderSensitive_iff, not_not]
  have hid : ∀ j, (Configuration.ofPerms (Equiv.swap 0 9) (Equiv.refl BitPos)).tables.permPos j = j :=
    Tables.ofPerms_permPos _ _
  exact wrongRev_fwd_of_identity hid hello

end Sys2Proof.Machine

open Sys2Proof Sys2Proof.Machine in
/-- Settles O49: the byte operations undo each other, on every element. -/
theorem sequenceTransformsUndoInPairs : Obligations.SequenceTransformsUndoInPairs :=
  fun c bytes => ⟨opSeq_isub_sub c bytes, opSeq_sub_isub c bytes, opSeq_iperm_perm c bytes, opSeq_perm_iperm c bytes⟩

open Sys2Proof Sys2Proof.Machine in
/-- Settles O50: the stages undo each other from the last to the first; the pseudo-instructions run the stages of R60, and
nothing follows the requests of the second. -/
theorem pipelinesUndoEachOther : Obligations.PipelinesUndoEachOther := by
  intro c bytes
  refine ⟨rfl, rev_fwd c bytes, fwd_rev c bytes, fun k b hk => ?_, rfl, rfl, ?_, ?_⟩
  · rw [fwd_eq_map, List.getElem?_map, hk]
    rfl
  · simp only [Pseudo.requests, Pseudo.stages, Pseudo.bytes, stageRequests, List.append_nil]
  · simp only [Pseudo.requests, Pseudo.stages, Pseudo.bytes, stageRequests, List.append_nil]

open Sys2Proof Sys2Proof.Machine in
/-- Settles O51: the wrong order recovers a sequence exactly where SUB and PERM commute on its bytes; an identity PBOX makes
them commute, and with bits 0 and 4 exchanged they do not on the blank of example 3. -/
theorem wrongOrderIsNotALawEitherWay : Obligations.WrongOrderIsNotALawEitherWay :=
  ⟨fun _ bytes h => wrongRev_fwd_of_identity h bytes, exists_source_order_sensitive, exists_source_not_order_sensitive⟩

open Sys2Proof Sys2Proof.Machine in
/-- Settles O48: transform and requests are maps over the sequence. -/
theorem sequencesKeepTheirLength : Obligations.SequencesKeepTheirLength :=
  fun _ _ => ⟨List.map_nil, List.map_nil, fun _ => ⟨List.length_map _, List.length_map _⟩⟩

end

section
/-! A host that takes every response, whatever it requests meanwhile (spec/60_exceptions.md R104). What was in flight at the
start stays at the front of the queue, where the requests that join behind it do not delay it; and as long as the engine
accepts no request it drains as if none was offered, until it is idle and so willing. -/

namespace Sys2Proof.Machine

/-- The same cycle without its request. -/
def Pins.withoutRequest (p : Pins) : Pins := { p with reqValid := false }

theorem Pins.takes.withoutRequest {p : Pins} (h : p.takes) : p.withoutRequest.takes := h

theorem reqTransfers_withoutRequest (s : State) (p : Pins) : reqTransfers s p.withoutRequest = false := rfl

/-- But for the combinational form, whether a response transfers does not depend on the request. -/
theorem rspTransfers_withoutRequest {s : State} (p : Pins) (hlat : s.latency ≠ 0) :
    rspTransfers s p.withoutRequest = rspTransfers s p := by
  simp [rspTransfers, rspValidOut, Pins.withoutRequest, hlat]

/-- A request that the engine does not accept leaves no trace. -/
theorem State.afterEdge_withoutRequest {s : State} {p : Pins} (hlat : s.latency ≠ 0) (hp : p.takes)
    (hq : reqTransfers s p = false) : s.afterEdge p.withoutRequest = s.afterEdge p := by
  obtain ⟨-, -, hread⟩ := hp
  have hread' : p.withoutRequest.readsRspData = false := hread
  simp only [State.afterEdge, finishEdge, State.afterRequest_quiet hq,
    State.afterRequest_quiet (reqTransfers_withoutRequest s p), rspTransfers_withoutRequest p hlat, hread, hread',
    Bool.false_eq_true, if_false]

/-- `s` with the requests `queue` in flight and no others. -/
def State.withInFlight (s : State) (queue : List InFlight) : State := { s with inFlight := queue }

theorem State.withInFlight_drainsWithin (s : State) (queue : List InFlight) (n : Nat) :
    (s.withInFlight queue).DrainsWithin n ↔ queue.length ≤ n ∧ ∀ e ∈ queue, s.latency < e.age + n := Iff.rfl

@[simp] theorem State.withInFlight_latency (s : State) (queue : List InFlight) :
    (s.withInFlight queue).latency = s.latency := rfl

@[simp] theorem State.withInFlight_inFlight (s : State) (queue : List InFlight) :
    (s.withInFlight queue).inFlight = queue := rfl

@[simp] theorem State.withInFlight_received (s : State) (queue : List InFlight) :
    (s.withInFlight queue).received = s.received := rfl

/-- The discipline does not need the younger requests in flight. -/
theorem Disciplined.withInFlight {s : State} (h : Disciplined s) {e : InFlight} {old : List InFlight}
    (hold : e :: old <+: s.inFlight) : Disciplined (s.withInFlight (e :: old)) := by
  obtain ⟨hlen, hages, hage, -, hdue, -⟩ := h
  have hhead : s.inFlight.head? = some e := by
    obtain ⟨new, hnew⟩ := hold
    simp [← hnew]
  exact ⟨hold.length_le.trans hlen, hages.sublist (hold.sublist.map _), fun x hx => hage x (hold.subset hx),
    fun _ => List.cons_ne_nil e old, fun x hx => hdue x (hhead.trans hx), nofun⟩

theorem State.inFlight_prefix_afterRequest (s : State) (p : Pins) : s.inFlight <+: (s.afterRequest p).inFlight := by
  cases hq : reqTransfers s p
  · rw [State.afterRequest_quiet hq]
  · simp [State.afterRequest_accepts hq]

theorem State.afterEdge_inFlight (s : State) (p : Pins) :
    (s.afterEdge p).inFlight = (if rspTransfers s p then (s.afterRequest p).inFlight.tail
      else (s.afterRequest p).inFlight).map fun e => { e with age := e.age + 1 } := rfl

theorem State.afterEdge_received (s : State) (p : Pins) :
    (s.afterEdge p).received =
      if rspTransfers s p then s.received ++ ((s.afterRequest p).inFlight.head?.map InFlight.response).toList
      else s.received := by
  rw [← s.afterRequest_received p]
  rfl

/-- With only the oldest requests in flight and none offered, an edge leaves the same of them and delivers the same. -/
theorem Disciplined.oldest_afterEdge {s : State} (h : Disciplined s) (p : Pins) {e : InFlight} {old : List InFlight}
    (hold : e :: old <+: s.inFlight) :
    ((s.withInFlight (e :: old)).afterEdge p.withoutRequest).inFlight <+: (s.afterEdge p).inFlight ∧
      ((s.withInFlight (e :: old)).afterEdge p.withoutRequest).received = (s.afterEdge p).received := by
  have hlat : s.latency ≠ 0 := by
    have hle : (e :: old).length ≤ s.latency := hold.length_le.trans h.1
    rw [List.length_cons] at hle
    omega
  have hrsp : rspTransfers (s.withInFlight (e :: old)) p.withoutRequest = rspTransfers s p :=
    rspTransfers_withoutRequest (s := s.withInFlight (e :: old)) p hlat
  obtain ⟨new, hnew⟩ := hold.trans (s.inFlight_prefix_afterRequest p)
  have hquiet := State.afterRequest_quiet (reqTransfers_withoutRequest (s.withInFlight (e :: old)) p)
  rw [State.afterEdge_inFlight, State.afterEdge_inFlight, State.afterEdge_received, State.afterEdge_received, hquiet, hrsp,
    ← hnew]
  cases rspTransfers s p <;> simp

/-- One cycle of a host that takes responses: of the oldest requests in flight, which can leave within `n + 1` cycles, those
that are left can leave within `n`, and the others are answered. -/
theorem Disciplined.oldest_drain_edge {s : State} {p : Pins} {n : Nat} {old : List InFlight} (h : Disciplined s)
    (hp : p.takes) (hold : old <+: s.inFlight) (hd : (s.withInFlight old).DrainsWithin (n + 1)) :
    ∃ left, left <+: (s.afterEdge p).inFlight ∧ ((s.afterEdge p).withInFlight left).DrainsWithin n ∧
      s.received ++ old.map InFlight.response <+: (s.afterEdge p).received ++ left.map InFlight.response := by
  cases old with
  | nil =>
    refine ⟨[], List.nil_prefix, by simp [State.withInFlight_drainsWithin], ?_⟩
    simpa [State.afterEdge] using received_prefix_finishEdge s p (s.afterRequest p)
  | cons e old =>
    obtain ⟨hqueue, hreceived⟩ := h.oldest_afterEdge p hold
    have hdrained := (h.withInFlight hold).drains_edge hp.withoutRequest rfl hd
    have hserves := serves_afterEdge (s.withInFlight (e :: old)) p.withoutRequest
    generalize (s.withInFlight (e :: old)).afterEdge p.withoutRequest = u at hqueue hreceived hdrained hserves
    refine ⟨u.inFlight, hqueue, ?_, ?_⟩
    · rw [State.withInFlight_drainsWithin, (serves_afterEdge s p).latency]
      simpa only [State.DrainsWithin, hserves.latency, State.withInFlight_latency] using hdrained
    · have hanswers : u.received ++ u.inFlight.map InFlight.response = s.received ++ (e :: old).map InFlight.response := by
        simpa [State.answers, fetched, reqTransfers_withoutRequest] using hserves.answers
      rw [← hreceived, hanswers]

/-- The oldest requests in flight are answered within the cycles that they can leave in, whatever is requested meanwhile. -/
theorem Disciplined.run_answers_oldest {ps : List Pins} {rest : List HostEvent} (hps : ∀ p ∈ ps, p.takes) {s : State}
    {old : List InFlight} (h : Disciplined s) (hold : old <+: s.inFlight)
    (hd : (s.withInFlight old).DrainsWithin ps.length) (hs : s.script = ps.map HostEvent.clock ++ rest) :
    ∃ t, Sys2Proof.core.run ps.length s = .next t ∧ s.received ++ old.map InFlight.response <+: t.received := by
  induction ps generalizing s old with
  | nil =>
    obtain rfl : old = [] := hd.inFlight_eq_nil
    exact ⟨s, rfl, by simp⟩
  | cons p ps ih =>
    obtain ⟨hp, hps⟩ := List.forall_mem_cons.mp hps
    obtain ⟨hstep, -, hscript⟩ := step_takes hs hp
    obtain ⟨left, hleft, hdrain, hanswers⟩ := h.popEvent.oldest_drain_edge hp hold hd
    obtain ⟨t, hrun, hreceived⟩ := ih hps (everyStepKeepsTheDiscipline s _ h hstep) hleft hdrain hscript
    exact ⟨t, (run_succ hstep ps.length).trans hrun, hanswers.trans hreceived⟩

/-- With `rsp_ready` at 1 a request that does not transfer meets an engine that is not combinational and not idle. -/
theorem Disciplined.busy_of_refuses {s : State} {p : Pins} (h : Disciplined s) (hp : p.takes) (hreq : p.reqValid = true)
    (hq : reqTransfers s p = false) : s.latency ≠ 0 ∧ s.inFlight ≠ [] := by
  obtain ⟨-, -, -, -, -, hwilling⟩ := h
  obtain ⟨hrst, hready, -⟩ := hp
  obtain ⟨hunwilling, hlat⟩ : s.reqReady = false ∧ s.latency ≠ 0 := by
    simpa [reqTransfers, reqReadyOut, hrst, hready, hreq] using hq
  exact ⟨hlat, fun hnil => by simp [hwilling hnil] at hunwilling⟩

/-- An engine that drains within `n` cycles accepts one of the requests offered in `n + 1`: until it accepts one it drains,
and once it is idle it accepts. -/
theorem Disciplined.run_accepts {ps : List Pins} {rest : List HostEvent} (hps : ∀ p ∈ ps, p.takes ∧ p.reqValid = true)
    {s : State} {n : Nat} (h : Disciplined s) (hd : s.DrainsWithin n) (hlen : ps.length = n + 1)
    (hs : s.script = ps.map HostEvent.clock ++ rest) :
    ∃ t, Sys2Proof.core.run ps.length s = .next t ∧ s.accepted.length < t.accepted.length := by
  induction ps generalizing s n with
  | nil => simp at hlen
  | cons p ps ih =>
    obtain ⟨⟨hp, hreq⟩, hps⟩ := List.forall_mem_cons.mp hps
    obtain ⟨hstep, hserves, hscript⟩ := step_takes hs hp
    cases hq : reqTransfers s p with
    | true =>
      obtain ⟨t, is, hrun, hserves', -⟩ := run_takes (fun q hmem => (hps q hmem).1) hscript
      refine ⟨t, (run_succ hstep ps.length).trans hrun, ?_⟩
      rw [(hserves.trans hserves').accepted]
      simp [fetched, hq]
    | false =>
      obtain ⟨hlat, hbusy⟩ := h.busy_of_refuses hp hreq hq
      obtain ⟨m, rfl⟩ : ∃ m, n = m + 1 := Nat.exists_eq_succ_of_ne_zero fun hzero =>
        hbusy (hzero ▸ hd).inFlight_eq_nil
      have hdrain : (s.popEvent.afterEdge p).DrainsWithin m := by
        rw [← State.afterEdge_withoutRequest (s := s.popEvent) hlat hp hq]
        exact h.popEvent.drains_edge hp.withoutRequest rfl hd
      obtain ⟨t, hrun, hmore⟩ :=
        ih hps (everyStepKeepsTheDiscipline s _ h hstep) hdrain (Nat.succ.inj hlen) hscript
      refine ⟨t, (run_succ hstep ps.length).trans hrun, ?_⟩
      rw [hserves.accepted] at hmore
      simpa [fetched, hq] using hmore

end Sys2Proof.Machine

open Sys2Proof.Machine in
/-- Settles O46: all that is in flight is the oldest, and drains within LATENCY cycles
(`Disciplined.run_answers_oldest`). -/
theorem responsesComeWithinLatency : Obligations.ResponsesComeWithinLatency := by
  intro s ps rest h hs hlen hps
  rw [← hlen]
  exact h.run_answers_oldest hps List.prefix_rfl (hlen ▸ h.drainsWithin_latency) hs

open Sys2Proof.Machine in
/-- Settles O47: a disciplined engine drains within LATENCY cycles, and accepts in one of LATENCY + 1
(`Disciplined.run_accepts`). -/
theorem engineKeepsAcceptingRequests : Obligations.EngineKeepsAcceptingRequests := by
  intro s ps rest h hs hlen hps
  rw [← hlen]
  exact h.run_accepts hps h.drainsWithin_latency hlen hs

end

section
/-! The reasons for which tables are refused (spec/60_exceptions.md R91, R93): of all reasons in the order of their codes,
those whose condition fails. -/

namespace Sys2Proof

/-- The condition of R17 to R20 whose failure has the reason `c` (R91). -/
def Tables.meets (t : Tables) : RefusalCode → Bool
  | .sboxNotBijective => t.sboxBijective
  | .rsboxNotInverse => t.rsboxInverse
  | .pboxNotBijective => t.pboxBijective
  | .rpboxNotInverse => t.rpboxInverse

/-- All reasons, in increasing order of their codes. -/
def RefusalCode.all : List RefusalCode := [.sboxNotBijective, .rsboxNotInverse, .pboxNotBijective, .rpboxNotInverse]

theorem RefusalCode.code_injective : Function.Injective RefusalCode.code := by
  intro c c'
  cases c <;> cases c' <;> decide

/-- The reasons listed are those, of all in order, whose condition fails (R93). -/
theorem Tables.failures_eq_filter (t : Tables) : t.failures = RefusalCode.all.filter fun c => !t.meets c := by
  have listed (c : RefusalCode) : (if t.meets c then [] else [c]) = [c].filter fun c => !t.meets c := by
    cases h : t.meets c <;> simp [h]
  calc t.failures
      = ([.sboxNotBijective].filter fun c => !t.meets c) ++ ([.rsboxNotInverse].filter fun c => !t.meets c) ++
          ([.pboxNotBijective].filter fun c => !t.meets c) ++ ([.rpboxNotInverse].filter fun c => !t.meets c) := by
        simp only [← listed]; rfl
    _ = RefusalCode.all.filter fun c => !t.meets c := by simp only [← List.filter_append]; rfl

theorem Tables.mem_failures_iff {t : Tables} {c : RefusalCode} : c ∈ t.failures ↔ t.meets c = false := by
  have hall : c ∈ RefusalCode.all := by cases c <;> decide
  simp [Tables.failures_eq_filter, hall]

theorem Tables.code_mem_failures_iff {t : Tables} (c : RefusalCode) :
    c.code ∈ t.failures.map RefusalCode.code ↔ t.meets c = false := by
  rw [List.mem_map_of_injective RefusalCode.code_injective, Tables.mem_failures_iff]

/-- The codes listed are some of 1 to 4, in this order. -/
theorem Tables.failures_codes_sublist (t : Tables) : (t.failures.map RefusalCode.code).Sublist [1, 2, 3, 4] := by
  rw [Tables.failures_eq_filter]
  exact (List.filter_sublist (l := RefusalCode.all)).map RefusalCode.code

/-- `WF(cfg)` is that every condition is met (R21). -/
theorem Tables.wf_iff_meets (t : Tables) : t.wf = true ↔ ∀ c, t.meets c = true := by
  simp only [Tables.wf, Bool.and_eq_true]
  constructor
  · rintro ⟨⟨⟨hs, hrs⟩, hp⟩, hrp⟩ c
    cases c <;> assumption
  · intro h
    exact ⟨⟨⟨h .sboxNotBijective, h .rsboxNotInverse⟩, h .pboxNotBijective⟩, h .rpboxNotInverse⟩

theorem Tables.failures_eq_nil_iff (t : Tables) : t.failures = [] ↔ t.wf = true := by
  simp [List.eq_nil_iff_forall_not_mem, Tables.mem_failures_iff, Tables.wf_iff_meets]

namespace Machine

/-- No engine is built from tables that fail the check (R89). -/
theorem boot_of_not_wf {t : Tables} (latency : Nat) (h : t.wf = false) :
    boot t latency = .refused (.configuration t.failures) := by
  simp [boot, h]

theorem boot_of_wf {t : Tables} (latency : Nat) (h : t.wf = true) :
    boot t latency = .next (State.afterReset ⟨t, h⟩ latency) := by
  simp [boot, h]

end Machine

end Sys2Proof

open Sys2Proof Sys2Proof.Machine in
/-- Settles O28: the failures are the reasons whose condition fails, in order of their codes
(`Tables.failures_eq_filter`); an inverse table makes a bijection, so a failed bijection has none. -/
theorem bootRefusesIllFormedTables : Obligations.BootRefusesIllFormedTables := by
  intro t latency
  refine ⟨boot_of_wf latency, boot_of_not_wf latency, t.failures_eq_nil_iff,
    Tables.code_mem_failures_iff .sboxNotBijective, Tables.code_mem_failures_iff .rsboxNotInverse,
    Tables.code_mem_failures_iff .pboxNotBijective, Tables.code_mem_failures_iff .rpboxNotInverse,
    List.Pairwise.sublist t.failures_codes_sublist (by decide), fun c hc => ?_, fun h => ?_, fun h => ?_⟩
  · have hcode : c ∈ [1, 2, 3, 4] := t.failures_codes_sublist.subset hc
    simp only [List.mem_cons, List.not_mem_nil, or_false] at hcode
    omega
  · exact Bool.eq_false_iff.mpr fun hinv => by simp [Tables.sboxBijective_of_inverse hinv] at h
  · exact Bool.eq_false_iff.mpr fun hinv => by simp [Tables.pboxBijective_of_inverse hinv] at h

end

section
/-! A loss of power (spec/60_exceptions.md R103). -/

namespace Sys2Proof.Machine

/-- A step on a loss of power drops the requests in flight, and does no more (R103). -/
theorem step_powerLoss {s : State} (h : s.nextEvent = .powerLoss) : step s = .next s.popEvent.dropRequests := by
  simp [step, h, hostEvent, losePower]

end Sys2Proof.Machine

open Sys2Proof.Machine in
/-- Settles O35: the step is `State.dropRequests` (`step_powerLoss`), which writes no table. -/
theorem powerLossDropsRequestsAndKeepsTables : Obligations.PowerLossDropsRequestsAndKeepsTables :=
  fun s h => ⟨s.popEvent.dropRequests, step_powerLoss h, rfl, rfl, rfl, rfl, rfl, rfl⟩

end

section
/-! Reset (spec/70_reset_and_hazards.md R105 to R108): the outputs while `rst` is 1, what the edge leaves, and the first
cycle after it. -/

namespace Sys2Proof.Machine

/-- A step with `rst = 1` in which the host reads nothing drops the requests in flight (R106). -/
theorem step_reset {s : State} {p : Pins} (he : s.nextEvent = .clock p) (hr : p.rst = true)
    (hd : p.readsRspData = false) : step s = .next { s.popEvent.dropRequests with cycle := s.cycle + 1 } :=
  (step_clock he).trans (clockEdge_reset s.popEvent hr hd)

/-- What a step with `rst = 1` leaves, where it gives a next state. -/
theorem step_of_rst {s t : State} {p : Pins} (he : s.nextEvent = .clock p) (hr : p.rst = true)
    (h : step s = .next t) : t = { s.popEvent.dropRequests with cycle := s.cycle + 1 } := by
  rw [step_clock he] at h
  obtain ⟨-, -, ht⟩ | ⟨hr', -⟩ | ⟨hr', -⟩ := clockEdge_cases h
  · exact ht
  · simp [hr] at hr'
  · simp [hr] at hr'

/-- The interface state in the first cycle after reset (R32, R107). -/
structure State.FirstCycle (s : State) : Prop where
  inFlight : s.inFlight = []
  rspValid : s.rspValid = false
  reqReady : s.reqReady = true
  received : s.received = []

theorem State.afterReset_firstCycle (cfg : Configuration) (latency : Nat) : (State.afterReset cfg latency).FirstCycle :=
  ⟨rfl, rfl, rfl, rfl⟩

theorem firstCycle_of_rst {s t : State} {p : Pins} (he : s.nextEvent = .clock p) (hr : p.rst = true)
    (h : step s = .next t) : t.FirstCycle := by
  obtain rfl := step_of_rst he hr h
  exact ⟨rfl, rfl, rfl, rfl⟩

/-- With LATENCY at least 1 the outputs are those of the state, and an empty queue has room though the host stalls. -/
theorem State.FirstCycle.outputs {s : State} (h : s.FirstCycle) {p : Pins} (hr : p.rst = false) (hlat : 1 ≤ s.latency) :
    rspValidOut s p = false ∧ reqReadyOut s p = true := by
  have hne : s.latency ≠ 0 := by omega
  constructor
  · simp [rspValidOut, hne, h.rspValid]
  · cases hready : p.rspReady
    · have hroom : s.inFlight.length < s.latency := by rw [h.inFlight]; exact hlat
      simp [reqReadyOut, hr, hready, h.reqReady, hroom]
    · simp [reqReadyOut, hr, hready, h.reqReady]

/-- No response has transferred since reset, so `rsp_data` holds no value (R31). -/
theorem State.FirstCycle.read_faults {s : State} (h : s.FirstCycle) {p : Pins} (hread : p.readsRspData = true) :
    clockEdge p s = .fault .rspDataHoldsNoValue :=
  clockEdge_fault (not_readsSafely_iff.mpr ⟨hread, rspReadable_eq_false_iff.mpr (.inr h.received)⟩)

/-- In the combinational form the outputs follow the inputs, whatever the state (R115). -/
theorem combinational_outputs {s : State} {p : Pins} (hlat : s.latency = 0) (hr : p.rst = false) :
    rspValidOut s p = p.reqValid ∧ reqReadyOut s p = p.rspReady := by
  constructor
  · simp [rspValidOut, hr, hlat]
  · cases hready : p.rspReady <;> simp [reqReadyOut, hr, hready, hlat]

end Sys2Proof.Machine

open Sys2Proof.Machine in
/-- Settles O33: both outputs have `rst = 0` as a factor, and so has each transfer. -/
theorem outputsLowInReset : Obligations.OutputsLowInReset := by
  intro s p hr
  refine ⟨?_, ?_, ?_, ?_⟩
  · simp [reqReadyOut, hr]
  · simp [rspValidOut, hr]
  · simp [reqTransfers, hr]
  · simp [rspTransfers, hr]

open Sys2Proof.Machine in
/-- Settles O34: the step is `State.dropRequests` (`step_reset`), which writes no table, and a clock edge is counted. -/
theorem resetDropsRequestsAndKeepsTables : Obligations.ResetDropsRequestsAndKeepsTables :=
  fun _ _ he hr hd => ⟨_, step_reset he hr hd, rfl, rfl, rfl, rfl, rfl, rfl, rfl, rfl⟩

open Sys2Proof.Machine in
/-- Settles O32: an engine just built and one just reset have the same interface state, `State.FirstCycle`, which fixes
the outputs where LATENCY is at least 1; where it is 0 they follow the inputs. -/
theorem firstCycleAfterReset : Obligations.FirstCycleAfterReset := by
  intro s hs
  have hfirst : s.FirstCycle := by
    obtain ⟨cfg, latency, rfl⟩ | ⟨r, q, he, hr, hstep⟩ := hs
    · exact State.afterReset_firstCycle cfg latency
    · exact firstCycle_of_rst he hr hstep
  refine ⟨hfirst.inFlight, fun p hr => ⟨hfirst.outputs hr, fun hlat => ?_, hfirst.read_faults⟩⟩
  exact combinational_outputs hlat hr

end

section
/-! The combinational form, LATENCY = 0 (spec/70_reset_and_hazards.md R115), and that the responses of a run do not depend
on LATENCY (R114, R115). -/

namespace Sys2Proof.Machine

theorem combinational_rspData {s : State} {p : Pins} (hlat : s.latency = 0) (hr : p.rst = false)
    (hreq : p.reqValid = true) : rspData s p = some (respond s.cfg p.instr) := by
  obtain ⟨hvalid, -⟩ := combinational_outputs hlat hr
  simp [rspData, hvalid, hreq, hlat]

/-- A disciplined engine in the combinational form has nothing in flight between two edges. -/
theorem Disciplined.idle_of_combinational {s : State} (h : Disciplined s) (hlat : s.latency = 0) : s.inFlight = [] := by
  obtain ⟨hlen, -⟩ := h
  exact List.length_eq_zero_iff.mp (by omega)

/-- In the combinational form the request offered to a ready host is accepted, and its response leaves, on one edge. -/
theorem combinational_edge {s : State} {p : Pins} (hlat : s.latency = 0) (hidle : s.inFlight = []) (hr : p.rst = false)
    (hreq : p.reqValid = true) (hready : p.rspReady = true) :
    Serves s [p.instr] (s.afterEdge p) ∧ (s.afterEdge p).inFlight = [] := by
  obtain ⟨hvalid, hwilling⟩ := combinational_outputs hlat hr
  have hq : reqTransfers s p = true := by simp [reqTransfers_of_not_rst hr, hreq, hwilling, hready]
  have hrsp : rspTransfers s p = true := by simp [rspTransfers_of_not_rst hr, hvalid, hreq, hready]
  constructor
  · simpa [fetched, hq] using serves_afterEdge s p
  · simp [State.afterEdge, finishEdge_inFlight, hrsp, State.afterRequest_accepts hq, hidle]

/-- Where nothing is in flight, what has been received answers all that was accepted. -/
theorem Paired.received_of_idle {s : State} (h : Paired s) (hidle : s.inFlight = []) :
    s.received = s.accepted.map (respond s.cfg) := by
  obtain ⟨hanswers, -⟩ := h
  exact (State.answers_idle hidle).symm.trans hanswers

end Sys2Proof.Machine

open Sys2Proof.Machine in
/-- Settles O37: the outputs and the value on the port are read off the inputs, and the edge is `combinational_edge`. -/
theorem combinationalForm : Obligations.CombinationalForm := by
  intro s p hlat hr
  obtain ⟨hvalid, hwilling⟩ := combinational_outputs hlat hr
  refine ⟨hvalid, hwilling, combinational_rspData hlat hr, fun h he hd hreq hready => ?_⟩
  have hidle : s.inFlight = [] := h.idle_of_combinational hlat
  have hsafe : p.readsSafely s.popEvent := by simp [Pins.readsSafely, hd]
  obtain ⟨hserves, hempty⟩ := combinational_edge (s := s.popEvent) hlat hidle hr hreq hready
  exact ⟨_, (step_clock he).trans (clockEdge_of_not_rst hr hsafe), hempty, hserves.accepted,
    hserves.received hidle hempty⟩

open Sys2Proof.Machine in
/-- Settles O38: both runs end paired, with responses that begin, and where nothing is in flight are, F of the same
requests under the same tables. -/
theorem responsesDoNotDependOnLatency : Obligations.ResponsesDoNotDependOnLatency := by
  intro n m s s' t t' h h' hcfg hrun hrun' hsame
  obtain ⟨ht, htables⟩ := h.kept_by_run hrun
  obtain ⟨ht', htables'⟩ := h'.kept_by_run hrun'
  have hanswers : t'.accepted.map (respond t'.cfg) = t.accepted.map (respond t.cfg) := by
    rw [htables', htables, hcfg, hsame]
  constructor
  · exact List.prefix_or_prefix_of_prefix ht.received_prefix (hanswers ▸ ht'.received_prefix)
  · intro hidle hidle'
    rw [ht.received_of_idle hidle, ht'.received_of_idle hidle', hanswers]

end
